-- ==== Sys2Proof/Word.lean ====
section
/-! DEFINITION. The words of the block: bytes, binary64 bit patterns, the pair of line levels. -/

namespace Sys2Proof

/-- 8 bits (R6). -/
abbrev Byte := BitVec 8

/-- The 64 bits of an IEEE 754 binary64 value (R8, R48); its arithmetic is in `Machine/Binary64.lean`. -/
abbrev Binary64 := BitVec 64

/-- The classified levels of the two lanes, `true` for HIGH (R50, R66); also a resolved bit-pair (R51). -/
structure Levels where
  dp : Bool
  dm : Bool
  deriving DecidableEq, Repr

end Sys2Proof
end

