-- ==== Sys2Proof/Config.lean ====
section
/-! DEFINITION. The parameters of 00_scope.md R5 that the model takes as an argument, and the one free value. -/

namespace Sys2Proof

/-- `TIME_ARITH` (R5, R82). -/
inductive TimeArith
  | binary64
  | exact
  deriving DecidableEq, Repr

/-- `NRZI_SEED` (R5, R108). -/
inductive NrziSeed
  | lastSyncBit
  | firstPostSyncBit
  deriving DecidableEq, Repr

/-- `CRC5_ORDER` (R5, R130). -/
inductive Crc5Order
  | docMsbFirst
  | usbReflected
  deriving DecidableEq, Repr

/-- The parameters of R5 that are not fixed. `none` stands for UNBOUNDED.
The fixed ones (THRESH, P_FS, P_LS, SYNC_FS, SYNC_LS) are in `Machine/Operands.lean`. -/
structure Config where
  timeArith         : TimeArith
  edgeSampleCounted : Bool
  accBits           : Option Nat
  bufCap            : Option Nat
  nrziSeed          : NrziSeed
  crc5Order         : Crc5Order
  deriving DecidableEq, Repr

/-- The values of R5 for this hardware. -/
def Config.default : Config where
  timeArith         := .binary64
  edgeSampleCounted := true
  accBits           := none
  bufCap            := none
  nrziSeed          := .lastSyncBit
  crc5Order         := .docMsbFirst

/-- `ACC_BITS` and `BUF_CAP` are positive integers or UNBOUNDED (R5). -/
def Config.wf (c : Config) : Bool :=
  c.accBits.all (0 < ·) && c.bufCap.all (0 < ·)

/-- FREE VALUE: sign and payload of the NaN that an operation on these operands results in (log 11).
IEEE 754 does not fix them, and no run of the block computes a NaN. -/
opaque Config.nanResult : Binary64 → Binary64 → BitVec 52

end Sys2Proof
end

