-- ==== Sys2Proof/Syntax.lean ====
section
/-! DEFINITION. The operations of the block: one constructor per row of spec/opcode_table.json. -/

namespace Sys2Proof

/-- The rows of the opcode table. `feed` and `reset` are the input actions (R87, R162); the others are the
operations that a FEED selects inside itself by a resolved bit-pair (R52), by the first byte (R53) and by the
PID byte (R54) of an attempt. -/
inductive Instr
  /-- SAMPLE192: one sample (R48). -/
  | feed (t vdp vdm : Binary64)
  /-- HINT2: a reset with the hint code `h` (R49). -/
  | reset (h : BitVec 2)
  /-- LINE2 `0b00`. -/
  | se0
  /-- LINE2 `0b01`: K at full speed, J at low speed. -/
  | diff01
  /-- LINE2 `0b10`: J at full speed, K at low speed. -/
  | diff10
  /-- LINE2 `0b11`. -/
  | se1
  /-- SYNC8 `0x2a`. -/
  | syncFs
  /-- SYNC8 `0xd5`. -/
  | syncLs
  /-- PID8 `0xa5`. -/
  | sof
  /-- PID8 `0x2d`. -/
  | setup
  /-- PID8 `0x69`: the row IN. -/
  | inToken
  /-- PID8 `0xe1`: the row OUT. -/
  | outToken
  /-- PID8 `0xc3`. -/
  | data0
  /-- PID8 `0x4b`. -/
  | data1
  /-- PID8 `0xd2`. -/
  | ack
  /-- PID8 `0x5a`. -/
  | nak
  /-- PID8 `0x1e`. -/
  | stall
  /-- PID8, any other byte (R127); it carries the PID byte (log 14). -/
  | raw (pid : Byte)
  deriving DecidableEq, Repr

/-- The row's mnemonic, as the table spells it. -/
def Instr.mnemonic : Instr → String
  | .feed _ _ _ => "FEED"
  | .reset _ => "RESET"
  | .se0 => "SE0"
  | .diff01 => "DIFF_01"
  | .diff10 => "DIFF_10"
  | .se1 => "SE1"
  | .syncFs => "SYNC_FS"
  | .syncLs => "SYNC_LS"
  | .sof => "SOF"
  | .setup => "SETUP"
  | .inToken => "IN"
  | .outToken => "OUT"
  | .data0 => "DATA0"
  | .data1 => "DATA1"
  | .ack => "ACK"
  | .nak => "NAK"
  | .stall => "STALL"
  | .raw _ => "RAW"

end Sys2Proof
end

