-- ==== Sys2Proof/Machine/State.lean ====
section
/-! DEFINITION. The state of the block (10_state.md), its output records (30_encoding.md R61, R62), the reasons a step can
stop, and the state after reset. -/

namespace Sys2Proof.Machine

/-- `S.ST` (R18). `gotSe1` and `gotEop` are passed through inside a FEED. -/
inductive St
  | unknown
  | idle
  | detectSync
  | receive
  | gotSe1
  | gotEop
  deriving DecidableEq, Repr

/-- `S.SPEED` (R19). -/
inductive Speed
  | none
  | ls
  | fs
  deriving DecidableEq, Repr

/-- `S.HINT` (R21). -/
inductive Hint
  | auto
  | forceLs
  | forceFs
  deriving DecidableEq, Repr

/-- The values of `S.FAULT` (R147); their numbers are `FaultCode.cause` and `Cause.code` (R141). -/
inductive FaultCode
  | nonfiniteTimestamp
  | nanVoltage
  | timestampRegression
  | accOverflow
  | bufferOverflow
  deriving DecidableEq, Repr

/-- The causes of R141. -/
inductive Cause
  | signalFault
  | syncMismatch
  | checksumMismatch
  | malformedPacket
  | modelFault (c : FaultCode)
  | reservedHint
  deriving DecidableEq, Repr

/-- A closing time of a window: a binary64 value, or under `TIME_ARITH = EXACT` a whole number of
`1 / (12000000 * 2^1074)` seconds, a unit in which every finite binary64 value and both bit periods are whole
(R82, log 12). -/
inductive Time
  | bin (b : Binary64)
  | exact (n : Int)
  deriving DecidableEq, Repr

/-- `tkind` (R61). -/
inductive TokenKind
  | setup
  | inToken
  | outToken
  deriving DecidableEq, Repr

/-- `dpid` (R61). -/
inductive DataPid
  | data0
  | data1
  deriving DecidableEq, Repr

/-- `hkind` (R61). -/
inductive HandshakeKind
  | ack
  | nak
  | stall
  deriving DecidableEq, Repr

/-- A packet-output record (R61). Every kind carries the whole byte sequence `raw` (R129). -/
inductive Packet
  | raw (raw : List Byte)
  | sof (frameNumber : BitVec 11) (crc5 : BitVec 5) (crc5Ok : Bool) (raw : List Byte)
  | token (tkind : TokenKind) (address : BitVec 7) (endpoint : BitVec 4) (crc5 : BitVec 5) (crc5Ok : Bool)
      (raw : List Byte)
  | data (dpid : DataPid) (payload : List Byte) (crc16 : BitVec 16) (crc16Ok : Bool) (raw : List Byte)
  | handshake (hkind : HandshakeKind) (raw : List Byte)
  deriving DecidableEq, Repr

/-- The code of a diagnostic record: `SE1_DETECTED` is the only one (R62). -/
inductive DiagCode
  | se1Detected
  deriving DecidableEq, Repr

/-- What one FEED can emit (R12, R150). -/
inductive Output
  | packet (rec : Packet)
  | diag (code : DiagCode) (timestamp : Binary64)
  deriving DecidableEq, Repr

/-- One input action: a 192-bit sample word (R48), or a reset with a hint code (R49, R162). -/
inductive Input
  | sample (w : BitVec 192)
  | reset (h : BitVec 2)
  deriving DecidableEq, Repr

/-- The state. The fields from `st` to `fault` are the registers of R33; `inputs` and `log` are the interfaces of
R158; `cfg`, `feedIndex` and `sampleT` are the model's own (INVENTORY.md, log 1, 5, 6). -/
structure State where
  st        : St
  speed     : Speed
  hint      : Hint
  prevLv    : Option Levels
  lastT     : Option Binary64
  winActive : Bool
  sumDp     : Int
  sumDm     : Int
  winEnd    : Time
  bufActive : Bool
  bytes     : List Byte
  curVal    : BitVec 8
  curN      : BitVec 4
  prevRaw   : Option Bool
  se0Count  : BitVec 2
  fault     : Option FaultCode
  /-- The parameters of R5, which no step changes. -/
  cfg       : Config
  /-- Pending input actions, oldest first. -/
  inputs    : List Input
  /-- Records emitted, oldest first, each with the index of its FEED (R45). -/
  log       : List (Nat × Output)
  /-- The index of the FEED in progress, or of the next one. -/
  feedIndex : Nat
  /-- The timestamp on the sample input of the FEED in progress. -/
  sampleT   : Binary64
  deriving DecidableEq, Repr

/-- The faults of the MODEL itself (log 9). Each is raised only in states that no run reaches, where a rule would read a
value that the spec says is never read; all are SAFE. The model faults of R147 are not among these: they are values of
`State.fault`, and entering one is a next state. -/
inductive Fault
  /-- Raised by OPEN_ATTEMPT, WINDOW_STEP, SYM_DIFF and the SYNC check: `P`, `IS_J` or `SYNC` of SPEED = NONE (R13, R20). Safe. -/
  | noSpeed
  /-- Raised by IDLE_STEP: `S.PREV_LV.val` of None (R9, R90). Safe. -/
  | noBaseline
  /-- Raised by FEED: it starts with `S.ST` = GOT_SE1 or GOT_EOP (R18, R87). Safe. -/
  | transientState
  deriving DecidableEq, Repr

/-- What the block refuses. -/
inductive Refusal
  /-- Raised by an arm of `exec` that has no meaning; there is none left. Safe. -/
  | notModelled (mnemonic : String)
  /-- Raised by RESET with hint code 3, as the spec says: no state results (R147, R162). Safe. -/
  | reservedHint
  deriving DecidableEq, Repr

/-- How a subroutine of a FEED ends early: by `raise Fault(code)` (R12, R148), or by a fault of the model itself. -/
inductive Stop
  | raise (c : FaultCode)
  | model (f : Fault)
  deriving DecidableEq, Repr

/-- The block right after `RESET(AUTO)` with the parameters at their defaults (R33, R5): the hint is an input, and AUTO is
the model's choice (log 2); WIN_END has no value, and +0.0 is the model's choice (log 3). -/
def State.reset : State where
  st        := .unknown
  speed     := .none
  hint      := .auto
  prevLv    := none
  lastT     := none
  winActive := false
  sumDp     := 0
  sumDm     := 0
  winEnd    := .bin 0#64
  bufActive := false
  bytes     := []
  curVal    := 0#8
  curN      := 0#4
  prevRaw   := none
  se0Count  := 0#2
  fault     := none
  cfg       := .default
  inputs    := []
  log       := []
  feedIndex := 0
  sampleT   := 0#64

end Sys2Proof.Machine
end

