-- ==== Sys2Proof/Machine/Binary64.lean ====
section
/-! DEFINITION. IEEE 754 binary64: the primitives of R8, rounding to nearest, ties to even. Operands are turned into exact
integers in units of 2^-1074, the result is computed exactly and narrowed once at the end (log 10). -/

namespace Sys2Proof.Machine

/-- The sign bit. -/
def signBit (a : Binary64) : Bool := a.getLsbD 63

/-- The biased exponent field. -/
def expField (a : Binary64) : Nat := (a.extractLsb' 52 11).toNat

/-- The fraction field. -/
def fracField (a : Binary64) : Nat := (a.extractLsb' 0 52).toNat

/-- `a` is a NaN. -/
def isNaN (a : Binary64) : Bool := expField a == 2047 && fracField a != 0

/-- `a` is an infinity. -/
def isInf (a : Binary64) : Bool := expField a == 2047 && fracField a == 0

/-- `finite(a)` (R8). -/
def finite (a : Binary64) : Bool := expField a != 2047

/-- The magnitude of a finite value in units of 2^-1074. For an infinity the same formula gives 2^2098, above every
finite magnitude, so that `flt` and `fge` order infinities by it. -/
def magnitude (a : Binary64) : Nat :=
  if expField a = 0 then fracField a else (2 ^ 52 + fracField a) * 2 ^ (expField a - 1)

/-- The value in units of 2^-1074. -/
def scaled (a : Binary64) : Int :=
  if signBit a then -(magnitude a : Int) else magnitude a

/-- `n / d` rounded to the nearest whole number, ties to even. -/
def roundEven (n d : Nat) : Nat :=
  if 2 * (n % d) < d then n / d
  else if d < 2 * (n % d) then n / d + 1
  else n / d + n / d % 2

/-- The magnitude bits of +infinity. -/
def infBits : Nat := 2047 * 2 ^ 52

/-- The magnitude bits of `n / d` units of 2^-1074, rounded to nearest even; an overflow gives infinity. With `k` the
excess of the bit length over 53 the last kept place is `2^k` units, and `k * 2^52` plus the kept digits are the bits. -/
def roundBits (n d : Nat) : Nat :=
  let k := Nat.log2 (n / d) - 52
  min (k * 2 ^ 52 + roundEven n (d * 2 ^ k)) infBits

/-- The binary64 value with this sign and these magnitude bits. -/
def ofBits (neg : Bool) (bits : Nat) : Binary64 :=
  BitVec.ofNat 64 ((if neg then 2 ^ 63 else 0) + bits)

/-- A quiet NaN whose sign and payload are free (log 11). -/
def nan (a b : Binary64) : Binary64 :=
  let free := Config.nanResult a b
  free.extractLsb' 51 1 ++ 0xfff#12 ++ free.extractLsb' 0 51

/-- `fadd(a, b)` (R8): the rounded sum. -/
def fadd (a b : Binary64) : Binary64 :=
  if isNaN a || isNaN b then nan a b
  else if isInf a then (if isInf b && signBit a != signBit b then nan a b else a)
  else if isInf b then b
  else
    let x := scaled a + scaled b
    if x = 0 then ofBits (signBit a && signBit b) 0 else ofBits (x < 0) (roundBits x.natAbs 1)

/-- `fdiv(a, b)` (R8): the rounded quotient. -/
def fdiv (a b : Binary64) : Binary64 :=
  let neg := signBit a != signBit b
  if isNaN a || isNaN b then nan a b
  else if isInf a then (if isInf b then nan a b else ofBits neg infBits)
  else if isInf b then ofBits neg 0
  else if magnitude b = 0 then (if magnitude a = 0 then nan a b else ofBits neg infBits)
  else ofBits neg (roundBits (magnitude a * 2 ^ 1074) (magnitude b))

/-- The rounded product, used by the stream notation alone (R64). -/
def fmul (a b : Binary64) : Binary64 :=
  let neg := signBit a != signBit b
  if isNaN a || isNaN b then nan a b
  else if isInf a || isInf b then
    (if magnitude a = 0 || magnitude b = 0 then nan a b else ofBits neg infBits)
  else ofBits neg (roundBits (magnitude a * magnitude b) (2 ^ 1074))

/-- `flt(a, b)` (R8): `a < b` as real numbers, false if either is a NaN. -/
def flt (a b : Binary64) : Bool := !isNaN a && !isNaN b && decide (scaled a < scaled b)

/-- `fge(a, b)` (R8): `a >= b` as real numbers, false if either is a NaN. -/
def fge (a b : Binary64) : Bool := !isNaN a && !isNaN b && decide (scaled b ≤ scaled a)

end Sys2Proof.Machine
end

