-- ==== Sys2Proof/Machine/Operands.lean ====
section
/-! DEFINITION. The fixed parameters of R5, the register codes, and how the operands of the rules are formed: levels, votes,
raw bits, line-state names, periods, SYNC patterns. -/

namespace Sys2Proof.Machine

/-- The code of `S.ST` (R18). -/
def St.code : St → BitVec 3
  | .unknown => 0#3
  | .idle => 1#3
  | .detectSync => 2#3
  | .receive => 3#3
  | .gotSe1 => 4#3
  | .gotEop => 5#3

/-- The code of `S.SPEED` (R19). -/
def Speed.code : Speed → BitVec 2
  | .none => 0#2
  | .ls => 1#2
  | .fs => 2#2

/-- The code of `S.HINT` (R21). -/
def Hint.code : Hint → BitVec 2
  | .auto => 0#2
  | .forceLs => 1#2
  | .forceFs => 2#2

/-- The hint of a hint code; code 3 is reserved (R49). -/
def hintOfCode (h : BitVec 2) : Option Hint :=
  if h = 0#2 then some .auto
  else if h = 1#2 then some .forceLs
  else if h = 2#2 then some .forceFs
  else none

/-- The speed that reset takes from the hint (R33). -/
def Hint.speed : Hint → Speed
  | .auto => .none
  | .forceLs => .ls
  | .forceFs => .fs

/-- The cause of a model fault (R141). -/
def FaultCode.cause (c : FaultCode) : Cause := .modelFault c

/-- The cause codes of R141. -/
def Cause.code : Cause → Nat
  | .signalFault => 1
  | .syncMismatch => 2
  | .checksumMismatch => 3
  | .malformedPacket => 4
  | .modelFault .nonfiniteTimestamp => 16
  | .modelFault .nanVoltage => 17
  | .modelFault .timestampRegression => 18
  | .modelFault .accOverflow => 19
  | .modelFault .bufferOverflow => 20
  | .reservedHint => 21

/-- The sub-kind codes of R61. -/
def TokenKind.code : TokenKind → BitVec 2
  | .setup => 0#2
  | .inToken => 1#2
  | .outToken => 2#2

/-- The sub-kind codes of R61. -/
def DataPid.code : DataPid → BitVec 1
  | .data0 => 0#1
  | .data1 => 1#1

/-- The sub-kind codes of R61. -/
def HandshakeKind.code : HandshakeKind → BitVec 2
  | .ack => 0#2
  | .nak => 1#2
  | .stall => 2#2

/-- The kind codes of R61. -/
def Packet.kindCode : Packet → Nat
  | .raw _ => 0
  | .sof _ _ _ _ => 1
  | .token _ _ _ _ _ _ => 2
  | .data _ _ _ _ _ => 3
  | .handshake _ _ => 4

/-- The code of a diagnostic (R62). -/
def DiagCode.code : DiagCode → Nat
  | .se1Detected => 1

/-- The byte sequence that every record keeps (R129). -/
def Packet.rawBytes : Packet → List Byte
  | .raw b => b
  | .sof _ _ _ b => b
  | .token _ _ _ _ _ b => b
  | .data _ _ _ _ b => b
  | .handshake _ b => b

/-- `THRESH`, the binary64 value nearest 1.2 (R5). -/
def thresh : Binary64 := 0x3ff3333333333333#64

/-- `P_FS = fdiv(1, 12e6)` (R5). -/
def periodFs : Binary64 := fdiv 0x3ff0000000000000#64 0x4166e36000000000#64

/-- `P_LS = fdiv(1, 1.5e6)` (R5). -/
def periodLs : Binary64 := fdiv 0x3ff0000000000000#64 0x4136e36000000000#64

/-- Units of `Time.exact` in a unit of 2^-1074 s. -/
def exactScale : Int := 12000000

/-- The exact rational 1/12000000 in units of `Time.exact` (R82). -/
def exactPeriodFs : Int := 2 ^ 1074

/-- The exact rational 1/1500000 in units of `Time.exact` (R82). -/
def exactPeriodLs : Int := 8 * 2 ^ 1074

/-- `LEVEL(v)`: LOW below the threshold, else HIGH (R65). -/
def level (v : Binary64) : Bool := !flt v thresh

/-- The two lanes, classified independently with the same threshold (R66). -/
def levels (vdp vdm : Binary64) : Levels := ⟨level vdp, level vdm⟩

/-- The contribution of a level to a window sum: +1 for HIGH, -1 for LOW (R50). -/
def weight (b : Bool) : Int := if b then 1 else -1

/-- The vote of one lane: 1 iff its sum is greater than 0, so a tie is 0 (R51, R75). -/
def vote (sum : Int) : Bool := decide (0 < sum)

/-- `LINE2 = {dp, dm}` (R51). -/
def lineCode (lv : Levels) : BitVec 2 := BitVec.ofBool lv.dp ++ BitVec.ofBool lv.dm

/-- The raw bit of a forwarded window: `dp > dm` (R103). -/
def rawBit (lv : Levels) : Bool := lv.dp && !lv.dm

/-- `IS_J(dp, dm, spd)` (R13); it has no value at speed NONE. -/
def isJ (lv : Levels) : Speed → Except Stop Bool
  | .none => .error (.model .noSpeed)
  | .fs => .ok (lv.dp && !lv.dm)
  | .ls => .ok (!lv.dp && lv.dm)

/-- `SYNC(spd)` (R53); it has no value at speed NONE. -/
def syncPattern : Speed → Except Stop Byte
  | .none => .error (.model .noSpeed)
  | .fs => .ok 0x2a#8
  | .ls => .ok 0xd5#8

/-- A sample's timestamp as the start of a window schedule: binary64 or exact, as `TIME_ARITH` says (R82). -/
def Time.ofSample (a : TimeArith) (t : Binary64) : Time :=
  match a with
  | .binary64 => .bin t
  | .exact => .exact (scaled t * exactScale)

/-- `fadd(e, P(spd))` in the arithmetic the schedule runs in (R20, R77, R81, R82); `P(NONE)` has no value. -/
def Time.addPeriod (e : Time) : Speed → Except Stop Time
  | .none => .error (.model .noSpeed)
  | .fs => .ok (match e with
    | .bin b => .bin (fadd b periodFs)
    | .exact n => .exact (n + exactPeriodFs))
  | .ls => .ok (match e with
    | .bin b => .bin (fadd b periodLs)
    | .exact n => .exact (n + exactPeriodLs))

/-- `fge(t, e)`: the timestamp reaches the closing time (R79); exact in both arithmetics, with no tolerance. -/
def Time.reached (e : Time) (t : Binary64) : Bool :=
  match e with
  | .bin b => fge t b
  | .exact n => decide (n ≤ scaled t * exactScale)

end Sys2Proof.Machine
end

