-- ==== Sys2Proof/Machine/Flags.lean ====
section
/-! DEFINITION. The flag-like state of the block (R31): the SE0 count, and the checksums that decide `crc5_ok` and
`crc16_ok` (45_crc.md). -/

namespace Sys2Proof.Machine

/-- `min(S.SE0_COUNT + 1, 2)` (R30, R96). -/
def se0Saturate (c : BitVec 2) : BitVec 2 := BitVec.ofNat 2 (min (c.toNat + 1) 2)

/-- The EOP test's `S.SE0_COUNT >= 2` (R95). -/
def se0Armed (c : BitVec 2) : Bool := decide (2 ≤ c.toNat)

/-- One bit of `CRC5_DOC`: shift left, feedback from bit 4 (R131). -/
def crc5DocBit (reg : BitVec 5) (bit : Bool) : BitVec 5 :=
  if reg.getLsbD 4 ^^ bit then reg <<< 1 ^^^ 0b00101#5 else reg <<< 1

/-- `CRC5_DOC(n)`: bits 10 down to 0 (R131). -/
def crc5Doc (n : BitVec 11) : BitVec 5 :=
  [10, 9, 8, 7, 6, 5, 4, 3, 2, 1, 0].foldl (fun reg i => crc5DocBit reg (n.getLsbD i)) 0b11111#5 ^^^ 0x1f#5

/-- One bit of `CRC5_USB`: shift right, feedback from bit 0 (R132). -/
def crc5UsbBit (reg : BitVec 5) (bit : Bool) : BitVec 5 :=
  if reg.getLsbD 0 ^^ bit then reg >>> 1 ^^^ 0b10100#5 else reg >>> 1

/-- `CRC5_USB(n)`: bits 0 up to 10 (R132). -/
def crc5Usb (n : BitVec 11) : BitVec 5 :=
  [0, 1, 2, 3, 4, 5, 6, 7, 8, 9, 10].foldl (fun reg i => crc5UsbBit reg (n.getLsbD i)) 0b11111#5 ^^^ 0x1f#5

/-- `CRC5(n)`, the variant that `CRC5_ORDER` selects (R130). -/
def crc5 (order : Crc5Order) (n : BitVec 11) : BitVec 5 :=
  match order with
  | .docMsbFirst => crc5Doc n
  | .usbReflected => crc5Usb n

/-- One turn of the inner loop of `CRC16` (R136). -/
def crc16Bit (crc : BitVec 16) : BitVec 16 :=
  if crc.getLsbD 0 then crc >>> 1 ^^^ 0xa001#16 else crc >>> 1

/-- The inner loop of `CRC16`: 8 turns (R136). -/
def crc16Loop (crc : BitVec 16) : BitVec 16 :=
  crc16Bit (crc16Bit (crc16Bit (crc16Bit (crc16Bit (crc16Bit (crc16Bit (crc16Bit crc)))))))

/-- `CRC16(p)` (R136). -/
def crc16 (p : List Byte) : BitVec 16 :=
  p.foldl (fun crc b => crc16Loop (crc ^^^ b.setWidth 16)) 0xffff#16 ^^^ 0xffff#16

/-- `crc5_ok` (R135). -/
def crc5Matches (order : Crc5Order) (x : BitVec 11) (received : BitVec 5) : Bool :=
  crc5 order x == received

/-- `crc16_ok` (R138). -/
def crc16Matches (payload : List Byte) (received : BitVec 16) : Bool :=
  crc16 payload == received

end Sys2Proof.Machine
end

