-- ==== Sys2Proof/Machine/Ops.lean ====
section
/-! DEFINITION. The shared operations on the packet buffer, the window and the outputs; raising a model fault; ending an
attempt; reset. -/

namespace Sys2Proof.Machine

/-! The packet buffer `S.BYTES`: the only storage of the block, indexed from 0, read by one byte, written only by
appending (R11, R35, R36, R37). -/

/-- `MemRead(i, 1) = S.BYTES[i]` (R11); an index outside the buffer reads as nothing (log 19). -/
def memRead (b : List Byte) (i : Nat) : Option Byte := b[i]?

/-- `S.BYTES[-k] = S.BYTES[len - k]`, for `1 <= k <= len` (R11). -/
def memReadBack (b : List Byte) (k : Nat) : Option Byte :=
  if 1 ≤ k ∧ k ≤ b.length then b[b.length - k]? else none

/-- `S.BYTES[a .. -2]`: from index `a` up to but excluding index `len - 2` (R11). -/
def memSlice (b : List Byte) (a : Nat) : List Byte := (b.take (b.length - 2)).drop a

/-- `BufAppend(v)` (R11, R36). -/
def bufAppend (b : List Byte) (v : Byte) : List Byte := b ++ [v]

/-- `S.BYTES[0]` after `BufAppend(v)`. -/
def firstAfterAppend (b : List Byte) (v : Byte) : Byte := b.headD v

/-- The buffer holds `BUF_CAP` bytes (R38). -/
def bufFull (cap : Option Nat) (b : List Byte) : Bool :=
  match cap with
  | none => false
  | some n => b.length == n

/-- The buffer's canonical form: its length is at most `BUF_CAP` (R27, R38). Every sequence of bytes within the capacity
is the contents of exactly one buffer, so equal buffers are equal data. -/
def Memory.wf (cap : Option Nat) (b : List Byte) : Bool := cap.all (b.length ≤ ·)

/-- `emit`: the record goes to its output with the index of the FEED (R12, R44, R45). -/
def emit (o : Output) (s : State) : State := { s with log := s.log ++ [(s.feedIndex, o)] }

/-- The fault entry `raise Fault(code)` (R12, R148), from the state before the FEED: `S.FAULT` is set, every other register
and both outputs are as they were. -/
def raiseFault (c : FaultCode) (before : State) : State := { before with fault := some c }

/-- How an operation that started in `before` ends: with its own state, with the fault entry, or with a fault of the model. -/
def finish (before : State) : Except Stop State → Host.Outcome State Fault Refusal
  | .ok s => .next s
  | .error (.raise c) => .next (raiseFault c before)
  | .error (.model f) => .fault f

/-- The same for a subroutine that also answers whether the attempt continues. -/
def finishSub (before : State) : Except Stop (State × Bool) → Host.Outcome State Fault Refusal
  | .ok (s, _) => .next s
  | .error (.raise c) => .next (raiseFault c before)
  | .error (.model f) => .fault f

/-- `OPEN_WINDOW(e)` (R72). -/
def openWindow (e : Time) (s : State) : State :=
  { s with winActive := true, sumDp := 0, sumDm := 0, winEnd := e }

/-- A sum whose magnitude exceeds `2^(ACC_BITS-1) - 1` (R73, R74, log 18). -/
def accOverflows (accBits : Option Nat) (sum : Int) : Bool :=
  match accBits with
  | none => false
  | some n => decide (2 ^ (n - 1) - 1 < sum.natAbs)

/-- `ACCUMULATE(lv)` (R73). -/
def accumulate (lv : Levels) (s : State) : Except Stop State :=
  let p := s.sumDp + weight lv.dp
  let m := s.sumDm + weight lv.dm
  if accOverflows s.cfg.accBits p || accOverflows s.cfg.accBits m then .error (.raise .accOverflow)
  else .ok { s with sumDp := p, sumDm := m }

/-- `RESOLVE()` (R75). -/
def resolve (s : State) : Levels := ⟨vote s.sumDp, vote s.sumDm⟩

/-- `DISCARD()` (R99): the sums, the closing time and the SE0 count are left as they were. -/
def discard (s : State) : State :=
  { s with
    winActive := false, bufActive := false, bytes := [], curVal := 0#8, curN := 0#4, prevRaw := none, st := .idle }

/-- `RESET(h)` for a hint that is not reserved (R162, R163): every register at its reset value (R33). The parameters, the
pending inputs and the records already emitted are not registers and stay. -/
def resetState (h : Hint) (s : State) : State :=
  { s with
    hint := h, speed := h.speed, st := .unknown, prevLv := none, lastT := none,
    winActive := false, sumDp := 0, sumDm := 0, winEnd := .bin 0#64,
    bufActive := false, bytes := [], curVal := 0#8, curN := 0#4, prevRaw := none,
    se0Count := 0#2, fault := none, sampleT := 0#64 }

end Sys2Proof.Machine
end

