-- ==== Sys2Proof/Machine/Nrzi.lean ====
section
/-! DEFINITION. The NRZI decoder and the byte assembler (43_nrzi_byte_assembler.md) and the SYNC check (R97); the rows SYNC_FS
and SYNC_LS. -/

namespace Sys2Proof.Machine

/-- `SYNC_CHECK()` with `b` for `S.BYTES[0]` (R97): acquisition, or a SyncMismatch (R143). -/
def syncCheck (b : Byte) (s : State) : Except Stop (State × Bool) := do
  let pattern ← syncPattern s.speed
  if b = pattern then
    .ok ({ s with
      st := .receive, curVal := 0#8, curN := 0#4,
      prevRaw := if s.cfg.nrziSeed = .firstPostSyncBit then none else s.prevRaw }, true)
  else .ok (discard s, false)

/-- `S.CUR_VAL | (bit << S.CUR_N)` (R109, R110). -/
def placeBit (val : BitVec 8) (n : BitVec 4) (bit : Bool) : BitVec 8 :=
  val ||| (BitVec.ofBool bit).setWidth 8 <<< n.toNat

/-- `PACK(bit)` (R109). -/
def pack (bit : Bool) (s : State) : Except Stop (State × Bool) :=
  let val := placeBit s.curVal s.curN bit
  let n := s.curN + 1#4
  if n = 8#4 then
    if bufFull s.cfg.bufCap s.bytes then .error (.raise .bufferOverflow)
    else
      let s' := { s with bytes := bufAppend s.bytes val, curVal := 0#8, curN := 0#4 }
      if s.st = .detectSync then syncCheck (firstAfterAppend s.bytes val) s' else .ok (s', true)
  else .ok ({ s with curVal := val, curN := n }, true)

/-- `FORWARD(dp, dm)` (R104): the raw bit itself before acquisition (R105), the NRZI data bit after it (R106), and every
forwarded window leaves its raw bit in `S.PREV_RAW` (R107). -/
def forward (lv : Levels) (s : State) : Except Stop (State × Bool) :=
  let raw := rawBit lv
  if s.st = .detectSync then pack raw { s with prevRaw := some raw }
  else match s.prevRaw with
    | none => .ok ({ s with prevRaw := some raw }, true)
    | some p => pack (raw == p) { s with prevRaw := some raw }

/-- SYNC_FS: the first byte is `0x2a`, accepted only when `S.SPEED = FS` (R53, R97). -/
def execSyncFs (s : State) : Host.Outcome State Fault Refusal := finishSub s (syncCheck 0x2a#8 s)

/-- SYNC_LS: the first byte is `0xd5`, accepted only when `S.SPEED = LS` (R53, R97). -/
def execSyncLs (s : State) : Host.Outcome State Fault Refusal := finishSub s (syncCheck 0xd5#8 s)

end Sys2Proof.Machine
end

