-- ==== Sys2Proof/Machine/Packet.lean ====
section
/-! DEFINITION. The packet classifier and field extractor (44_packet_classifier.md), and the rows of the PID space: each
places its record of `S.BYTES` on the packet output and writes no register (R114, R98). -/

namespace Sys2Proof.Machine

/-- The 11 bits `{B[3][2:0], B[2]}`: the frame number of an SOF, `addrendp` of a token (R56, R57). -/
def field11 (b2 b3 : Byte) : BitVec 11 := (b3.setWidth 11 &&& 0x7#11) <<< 8 ||| b2.setWidth 11

/-- `crc5_received = (B[3] >> 3) & 0x1f` (R56, R57). -/
def crc5Received (b3 : Byte) : BitVec 5 := (b3 >>> 3 &&& 0x1f#8).setWidth 5

/-- `address = B[2] & 0x7f` (R57). -/
def tokenAddress (b2 : Byte) : BitVec 7 := (b2 &&& 0x7f#8).setWidth 7

/-- `endpoint = (B[3] & 0x7) << 1 | (B[2] & 0x80) >> 7` (R57). -/
def tokenEndpoint (b2 b3 : Byte) : BitVec 4 := ((b3 &&& 0x7#8) <<< 1 ||| (b2 &&& 0x80#8) >>> 7).setWidth 4

/-- `crc16_received = B[-1] << 8 | B[-2]` (R58). -/
def crc16Received (last secondLast : Byte) : BitVec 16 := last.setWidth 16 <<< 8 ||| secondLast.setWidth 16

/-- A PID whose fields need four bytes (R115): with fewer, the record is Raw. -/
def needsFour (b : List Byte) (rec : Option Packet) : Packet :=
  if 4 ≤ b.length then rec.getD (.raw b) else .raw b

/-- `SOF_REC(B)` (R116). -/
def sofRec (order : Crc5Order) (b : List Byte) : Option Packet := do
  let b2 ← memRead b 2
  let b3 ← memRead b 3
  let fn := field11 b2 b3
  let rx := crc5Received b3
  some (.sof fn rx (crc5Matches order fn rx) b)

/-- `TOKEN_REC(B, k)` (R117). -/
def tokenRec (order : Crc5Order) (k : TokenKind) (b : List Byte) : Option Packet := do
  let b2 ← memRead b 2
  let b3 ← memRead b 3
  let rx := crc5Received b3
  some (.token k (tokenAddress b2) (tokenEndpoint b2 b3) rx (crc5Matches order (field11 b2 b3) rx) b)

/-- `DATA_REC(B, k)` (R121). -/
def dataRec (k : DataPid) (b : List Byte) : Option Packet := do
  let last ← memReadBack b 1
  let secondLast ← memReadBack b 2
  let payload := memSlice b 2
  let rx := crc16Received last secondLast
  some (.data k payload rx (crc16Matches payload rx) b)

/-- SOF (R115, R116). -/
def sofPacket (order : Crc5Order) (b : List Byte) : Packet := needsFour b (sofRec order b)

/-- SETUP, IN, OUT (R115, R117 to R120). -/
def tokenPacket (order : Crc5Order) (k : TokenKind) (b : List Byte) : Packet := needsFour b (tokenRec order k b)

/-- DATA0, DATA1 (R115, R121 to R123). -/
def dataPacket (k : DataPid) (b : List Byte) : Packet := needsFour b (dataRec k b)

/-- ACK, NAK, STALL (R115, R124 to R126): two bytes are needed. -/
def handshakePacket (k : HandshakeKind) (b : List Byte) : Packet :=
  if 2 ≤ b.length then .handshake k b else .raw b

/-- The record of a byte sequence whose PID byte is `pid` (R114). -/
def classifyPid (order : Crc5Order) (pid : Byte) (b : List Byte) : Packet :=
  if pid = 0xa5#8 then sofPacket order b
  else if pid = 0x2d#8 then tokenPacket order .setup b
  else if pid = 0x69#8 then tokenPacket order .inToken b
  else if pid = 0xe1#8 then tokenPacket order .outToken b
  else if pid = 0xc3#8 then dataPacket .data0 b
  else if pid = 0x4b#8 then dataPacket .data1 b
  else if pid = 0xd2#8 then handshakePacket .ack b
  else if pid = 0x5a#8 then handshakePacket .nak b
  else if pid = 0x1e#8 then handshakePacket .stall b
  else .raw b

/-- `CLASSIFY(B)` (R114); it is called only with a PID byte, `B.len >= 2`. -/
def classify (order : Crc5Order) (b : List Byte) : Packet :=
  match memRead b 1 with
  | some pid => classifyPid order pid b
  | none => .raw b

/-- SOF (R116). -/
def execSof (s : State) : Host.Outcome State Fault Refusal :=
  .next (emit (.packet (sofPacket s.cfg.crc5Order s.bytes)) s)

/-- SETUP (R118). -/
def execSetup (s : State) : Host.Outcome State Fault Refusal :=
  .next (emit (.packet (tokenPacket s.cfg.crc5Order .setup s.bytes)) s)

/-- IN (R119). -/
def execIn (s : State) : Host.Outcome State Fault Refusal :=
  .next (emit (.packet (tokenPacket s.cfg.crc5Order .inToken s.bytes)) s)

/-- OUT (R120). -/
def execOut (s : State) : Host.Outcome State Fault Refusal :=
  .next (emit (.packet (tokenPacket s.cfg.crc5Order .outToken s.bytes)) s)

/-- DATA0 (R122). -/
def execData0 (s : State) : Host.Outcome State Fault Refusal :=
  .next (emit (.packet (dataPacket .data0 s.bytes)) s)

/-- DATA1 (R123). -/
def execData1 (s : State) : Host.Outcome State Fault Refusal :=
  .next (emit (.packet (dataPacket .data1 s.bytes)) s)

/-- ACK (R124). -/
def execAck (s : State) : Host.Outcome State Fault Refusal :=
  .next (emit (.packet (handshakePacket .ack s.bytes)) s)

/-- NAK (R125). -/
def execNak (s : State) : Host.Outcome State Fault Refusal :=
  .next (emit (.packet (handshakePacket .nak s.bytes)) s)

/-- STALL (R126). -/
def execStall (s : State) : Host.Outcome State Fault Refusal :=
  .next (emit (.packet (handshakePacket .stall s.bytes)) s)

/-- RAW (R127): whatever the byte and the length. -/
def execRaw (_pid : Byte) (s : State) : Host.Outcome State Fault Refusal :=
  .next (emit (.packet (.raw s.bytes)) s)

end Sys2Proof.Machine
end

