-- ==== Sys2Proof/Machine/Line.lean ====
section
/-! DEFINITION. The line-symbol operations (42_line_state_machine.md, sections 3 and 4): SE0, DIFF_01, DIFF_10, SE1, and the
end of packet. -/

namespace Sys2Proof.Machine

/-- `GOT_EOP_STEP()` (R98): the record of more than one byte is emitted, then the attempt ends. -/
def gotEopStep (s : State) : State :=
  let eop := { s with st := .gotEop }
  discard (if 1 < s.bytes.length then emit (.packet (classify s.cfg.crc5Order s.bytes)) eop else eop)

/-- `SYM_SE1(t)` (R94, R142). -/
def symSe1 (t : Binary64) (s : State) : State :=
  discard (emit (.diag .se1Detected t) { s with st := .gotSe1 })

/-- `SYM_DIFF(dp, dm)` (R95). -/
def symDiff (lv : Levels) (s : State) : Except Stop (State × Bool) := do
  let eop ← if se0Armed s.se0Count then isJ lv s.speed else .ok false
  let s' := { s with se0Count := 0#2 }
  if eop then .ok (gotEopStep s', false) else forward lv s'

/-- `SYM_SE0()` (R96). -/
def symSe0 (s : State) : Except Stop (State × Bool) :=
  forward ⟨false, false⟩ { s with se0Count := se0Saturate s.se0Count }

/-- `SYMBOL(dp, dm, t)` (R93): exactly one of the three classes. -/
def symbol (lv : Levels) (t : Binary64) (s : State) : Except Stop (State × Bool) :=
  if lv.dp && lv.dm then .ok (symSe1 t s, false)
  else if lv.dp != lv.dm then symDiff lv s
  else symSe0 s

/-- SE0 (R96). -/
def execSe0 (s : State) : Host.Outcome State Fault Refusal := finishSub s (symSe0 s)

/-- DIFF_01 (R95). -/
def execDiff01 (s : State) : Host.Outcome State Fault Refusal := finishSub s (symDiff ⟨false, true⟩ s)

/-- DIFF_10 (R95). -/
def execDiff10 (s : State) : Host.Outcome State Fault Refusal := finishSub s (symDiff ⟨true, false⟩ s)

/-- SE1 (R94): the timestamp is the one on the sample input (log 6). -/
def execSe1 (s : State) : Host.Outcome State Fault Refusal := .next (symSe1 s.sampleT s)

end Sys2Proof.Machine
end

