-- ==== Sys2Proof/Machine/Feed.lean ====
section
/-! DEFINITION. FEED, the one operation per input sample (R87), with the pre-checks, the speed inferencer, the IDLE edge and
the window step. -/

namespace Sys2Proof.Machine

/-- The contract part of `FEED_PRECHECKS` (R88): the first check that fails, in the order of R151. -/
def contractBreach (t vdp vdm : Binary64) (lastT : Option Binary64) : Option FaultCode :=
  if !finite t then some .nonfiniteTimestamp
  else if isNaN vdp || isNaN vdm then some .nanVoltage
  else if lastT.any (flt t ·) then some .timestampRegression
  else none

/-- The inference of `SPEED_STEP` (R68): the first differential sample decides. -/
def inferSpeed (lv : Levels) (spd : Speed) : Speed :=
  if spd = .none ∧ lv.dp ≠ lv.dm then (if lv.dp then .fs else .ls) else spd

/-- `SPEED_STEP(lv)` (R67, R70). -/
def speedStep (lv : Levels) (s : State) : State :=
  let spd := inferSpeed lv s.speed
  { s with speed := spd, st := if spd ≠ .none ∧ s.prevLv ≠ none then .idle else s.st }

/-- `OPEN_ATTEMPT(t, lv)` (R91, R77, R78). -/
def openAttempt (t : Binary64) (lv : Levels) (s : State) : Except Stop State := do
  let e ← (Time.ofSample s.cfg.timeArith t).addPeriod s.speed
  let s' := openWindow e { s with
    st := .detectSync, bufActive := true, bytes := [], curVal := 0#8, curN := 0#4, prevRaw := none, se0Count := 0#2 }
  if s.cfg.edgeSampleCounted then accumulate lv s' else .ok s'

/-- `IDLE_STEP(t, lv)` (R90): any change of either lane is an edge. -/
def idleStep (t : Binary64) (lv : Levels) (s : State) : Except Stop State :=
  match s.prevLv with
  | none => .error (.model .noBaseline)
  | some p => if lv = p then .ok s else openAttempt t lv s

/-- `WINDOW_STEP(t, lv)` (R92): the close test, at most one close per sample, the free-running reopen (R79 to R81, R83). -/
def windowStep (t : Binary64) (lv : Levels) (s : State) : Except Stop State :=
  if s.winEnd.reached t then do
    let (s', cont) ← symbol (resolve s) t { s with winActive := false }
    if cont then do
      let e ← s.winEnd.addPeriod s'.speed
      accumulate lv (openWindow e s')
    else .ok s'
  else accumulate lv s

/-- The action of the state the FEED starts in (R87). -/
def stateStep (t : Binary64) (lv : Levels) (s : State) : Except Stop State :=
  match s.st with
  | .unknown => .ok (speedStep lv s)
  | .idle => idleStep t lv s
  | .detectSync => windowStep t lv s
  | .receive => windowStep t lv s
  | .gotSe1 => .error (.model .transientState)
  | .gotEop => .error (.model .transientState)

/-- `FEED_COMMIT(t, lv)` (R89). -/
def feedCommit (t : Binary64) (lv : Levels) (s : State) : State :=
  { s with prevLv := some lv, lastT := some t }

/-- `FEED(t, vdp, vdm)` of a block that is not stuck (R87). -/
def feed (t vdp vdm : Binary64) (s : State) : Except Stop State :=
  match contractBreach t vdp vdm s.lastT with
  | some c => .error (.raise c)
  | none => do
    let lv := levels vdp vdm
    let s' ← stateStep t lv { s with sampleT := t }
    .ok (feedCommit t lv s')

/-- FEED (R87). After a model fault the block is stuck and FEED has no effect (R88, R149). -/
def execFeed (t vdp vdm : Binary64) (s : State) : Host.Outcome State Fault Refusal :=
  if s.fault.isSome then .next s else finish s (feed t vdp vdm s)

end Sys2Proof.Machine
end

