-- ==== Sys2Proof/Machine/Reset.lean ====
section
/-! DEFINITION. RESET (70_reset_and_hazards.md R162). -/

namespace Sys2Proof.Machine

/-- RESET (R162): a reserved hint code is refused and no state results (R147). -/
def execReset (h : BitVec 2) (s : State) : Host.Outcome State Fault Refusal :=
  match hintOfCode h with
  | some hint => .next (resetState hint s)
  | none => .refused .reservedHint

end Sys2Proof.Machine
end

