-- ==== Sys2Proof/Machine/Dispatch.lean ====
section
/-! DEFINITION. One arm per row of the opcode table. -/

namespace Sys2Proof.Machine

/-- The meaning of each operation. -/
def exec (i : Instr) (s : State) : Host.Outcome State Fault Refusal :=
  match i with
  | .feed t vdp vdm => Sys2Proof.Machine.execFeed t vdp vdm s
  | .reset h => Sys2Proof.Machine.execReset h s
  | .se0 => Sys2Proof.Machine.execSe0 s
  | .diff01 => Sys2Proof.Machine.execDiff01 s
  | .diff10 => Sys2Proof.Machine.execDiff10 s
  | .se1 => Sys2Proof.Machine.execSe1 s
  | .syncFs => Sys2Proof.Machine.execSyncFs s
  | .syncLs => Sys2Proof.Machine.execSyncLs s
  | .sof => Sys2Proof.Machine.execSof s
  | .setup => Sys2Proof.Machine.execSetup s
  | .inToken => Sys2Proof.Machine.execIn s
  | .outToken => Sys2Proof.Machine.execOut s
  | .data0 => Sys2Proof.Machine.execData0 s
  | .data1 => Sys2Proof.Machine.execData1 s
  | .ack => Sys2Proof.Machine.execAck s
  | .nak => Sys2Proof.Machine.execNak s
  | .stall => Sys2Proof.Machine.execStall s
  | .raw pid => Sys2Proof.Machine.execRaw pid s

end Sys2Proof.Machine
end

