-- ==== Sys2Proof/WellFormed.lean ====
section
/-! DEFINITION. Which operations the encodings of 30_encoding.md admit. -/

namespace Sys2Proof

/-- The nine PID values of R54. -/
def namedPids : List Byte :=
  [0xa5#8, 0x2d#8, 0x69#8, 0xe1#8, 0xc3#8, 0x4b#8, 0xd2#8, 0x5a#8, 0x1e#8]

/-- A reset has a hint code that is not reserved (R49, R63); RAW has a PID byte that is none of the nine (R54, R127). -/
def Instr.wf : Instr → Bool
  | .feed _ _ _ => true
  | .reset h => h != 3#2
  | .se0 => true
  | .diff01 => true
  | .diff10 => true
  | .se1 => true
  | .syncFs => true
  | .syncLs => true
  | .sof => true
  | .setup => true
  | .inToken => true
  | .outToken => true
  | .data0 => true
  | .data1 => true
  | .ack => true
  | .nak => true
  | .stall => true
  | .raw pid => !namedPids.contains pid

end Sys2Proof
end

