-- ==== Sys2Proof/Decode.lean ====
section
/-! DEFINITION. The five code spaces of spec/opcode_table.json: the decoder, total and rejecting by name, and the encoder. -/

namespace Sys2Proof

/-- A word of one of the code spaces (30_encoding.md; the table's "format"). -/
inductive Code
  /-- SAMPLE192 (R48). -/
  | sample (w : BitVec 192)
  /-- HINT2 (R49). -/
  | hint (h : BitVec 2)
  /-- LINE2, a resolved bit-pair: bit 1 is `dp`, bit 0 is `dm` (R51). -/
  | line (l : BitVec 2)
  /-- SYNC8, the first byte of an attempt (R53). -/
  | sync (b : Byte)
  /-- PID8, the second byte of an attempt (R54). -/
  | pid (b : Byte)
  deriving DecidableEq, Repr

/-- Why a word has no row. -/
inductive Reject
  /-- A first byte that is neither SYNC pattern (R53, R63): the attempt is dropped. -/
  | notSync (b : Byte)
  deriving DecidableEq, Repr

/-- SAMPLE192: `t` is bits 191..128, `vdp` bits 127..64, `vdm` bits 63..0 (R48). -/
def decodeSample (w : BitVec 192) : Instr :=
  .feed (w.extractLsb' 128 64) (w.extractLsb' 64 64) (w.extractLsb' 0 64)

/-- LINE2: all four codes are defined (R52). -/
def decodeLine (l : BitVec 2) : Instr :=
  if l = 0b00#2 then .se0
  else if l = 0b01#2 then .diff01
  else if l = 0b10#2 then .diff10
  else .se1

/-- SYNC8: one pattern per speed, no other value (R53). -/
def decodeSync (b : Byte) : Except Reject Instr :=
  if b = 0x2a#8 then .ok .syncFs
  else if b = 0xd5#8 then .ok .syncLs
  else .error (.notSync b)

/-- PID8: a match on all 8 bits, every other byte is RAW (R54). -/
def decodePid (b : Byte) : Instr :=
  if b = 0xa5#8 then .sof
  else if b = 0x2d#8 then .setup
  else if b = 0x69#8 then .inToken
  else if b = 0xe1#8 then .outToken
  else if b = 0xc3#8 then .data0
  else if b = 0x4b#8 then .data1
  else if b = 0xd2#8 then .ack
  else if b = 0x5a#8 then .nak
  else if b = 0x1e#8 then .stall
  else .raw b

/-- The decoder. A hint code is an operand of RESET, reserved or not: RESET itself refuses code 3 (R162). -/
def decode : Code → Except Reject Instr
  | .sample w => .ok (decodeSample w)
  | .hint h => .ok (.reset h)
  | .line l => .ok (decodeLine l)
  | .sync b => decodeSync b
  | .pid b => .ok (decodePid b)

/-- The encoder, from the encodings of R48, R49, R52, R53 and R54. -/
def encode : Instr → Code
  | .feed t vdp vdm => .sample (t ++ vdp ++ vdm)
  | .reset h => .hint h
  | .se0 => .line 0b00#2
  | .diff01 => .line 0b01#2
  | .diff10 => .line 0b10#2
  | .se1 => .line 0b11#2
  | .syncFs => .sync 0x2a#8
  | .syncLs => .sync 0xd5#8
  | .sof => .pid 0xa5#8
  | .setup => .pid 0x2d#8
  | .inToken => .pid 0x69#8
  | .outToken => .pid 0xe1#8
  | .data0 => .pid 0xc3#8
  | .data1 => .pid 0x4b#8
  | .ack => .pid 0xd2#8
  | .nak => .pid 0x5a#8
  | .stall => .pid 0x1e#8
  | .raw b => .pid b

/-- The code spaces by name. -/
inductive Format
  | sample192
  | hint2
  | line2
  | sync8
  | pid8
  deriving DecidableEq, Repr

/-- The code space a word is of. -/
def Code.format : Code → Format
  | .sample _ => .sample192
  | .hint _ => .hint2
  | .line _ => .line2
  | .sync _ => .sync8
  | .pid _ => .pid8

/-- The bits of a word as a number, bit 0 the least significant. -/
def Code.bits : Code → Nat
  | .sample w => w.toNat
  | .hint h => h.toNat
  | .line l => l.toNat
  | .sync b => b.toNat
  | .pid b => b.toNat

/-- A row of spec/opcode_table.json: a word of its format is the row's when its bits under `mask` are `pattern`. -/
structure Row where
  mnemonic : String
  format   : Format
  pattern  : Nat
  mask     : Nat
  deriving DecidableEq, Repr

/-- The table, row for row; RAW is last and has the lowest priority. -/
def opcodeTable : List Row :=
  [⟨"FEED", .sample192, 0x0, 0x0⟩, ⟨"RESET", .hint2, 0x0, 0x0⟩,
   ⟨"SE0", .line2, 0x0, 0x3⟩, ⟨"DIFF_01", .line2, 0x1, 0x3⟩, ⟨"DIFF_10", .line2, 0x2, 0x3⟩, ⟨"SE1", .line2, 0x3, 0x3⟩,
   ⟨"SYNC_FS", .sync8, 0x2a, 0xff⟩, ⟨"SYNC_LS", .sync8, 0xd5, 0xff⟩,
   ⟨"SOF", .pid8, 0xa5, 0xff⟩, ⟨"SETUP", .pid8, 0x2d, 0xff⟩, ⟨"IN", .pid8, 0x69, 0xff⟩, ⟨"OUT", .pid8, 0xe1, 0xff⟩,
   ⟨"DATA0", .pid8, 0xc3, 0xff⟩, ⟨"DATA1", .pid8, 0x4b, 0xff⟩, ⟨"ACK", .pid8, 0xd2, 0xff⟩, ⟨"NAK", .pid8, 0x5a, 0xff⟩,
   ⟨"STALL", .pid8, 0x1e, 0xff⟩, ⟨"RAW", .pid8, 0x00, 0x00⟩]

/-- The row covers the word. -/
def Row.covers (r : Row) (c : Code) : Bool :=
  r.format == c.format && c.bits &&& r.mask == r.pattern

/-- The first row of the table that covers the word. -/
def tableRow (c : Code) : Option Row :=
  opcodeTable.find? (·.covers c)

/-- What the decoder reads from a number of `nbits` bits without its code space. The spaces overlap as numbers,
so this reads a number of more than 8 bits, or of none, as a sample; a number of 8 bits as a LINE2 code where it is below 4,
then as SYNC8, then as PID8 (log 15). The machine itself never guesses a space. -/
def decodeTableWord (nbits w : Nat) : Option Instr :=
  if nbits = 0 ∨ 8 < nbits then some (decodeSample (BitVec.ofNat 192 w))
  else if w < 4 then some (decodeLine (BitVec.ofNat 2 w))
  else match decodeSync (BitVec.ofNat 8 w) with
    | .ok i => some i
    | .error _ => some (decodePid (BitVec.ofNat 8 w))

end Sys2Proof
end

