-- ==== Sys2Proof/Machine/Fetch.lean ====
section
/-! DEFINITION. How a step takes its input action, and how a row of the opcode table is brought before the next step. -/

namespace Sys2Proof.Machine

/-- The word of an input action (R48, R49). -/
def Input.toCode : Input → Code
  | .sample w => .sample w
  | .reset h => .hint h

/-- The next input action, decoded, and the state with it taken from the pending ones (R17). `none` when no input is
pending, or when the decoder rejects its word, which it never does for a sample or a hint. -/
def fetch (s : State) : Option (Instr × State) :=
  match s.inputs with
  | [] => none
  | i :: rest =>
    match decode i.toCode with
    | .ok instr => some (instr, { s with inputs := rest })
    | .error _ => none

/-- The index moves on after a FEED (R17, R45). -/
def advance (i : Instr) (s : State) : State :=
  match i with
  | .feed _ _ _ => { s with feedIndex := s.feedIndex + 1 }
  | _ => s

/-- An input action put before the pending ones. -/
def present (i : Input) (s : State) : State := { s with inputs := i :: s.inputs }

/-- A sample at `t = 0` with both lines low. -/
def stagedSample : Input := .sample 0#192

/-- An attempt whose open window votes `lv` and is closed by a sample at `t = 0`, which is put before the pending inputs.
This is how an operation that FEED selects inside itself comes to be run by the next step (log 16). -/
def stageWindow (lv : Levels) (s : State) : State :=
  present stagedSample { s with
    st := if s.st = .receive then .receive else .detectSync,
    speed := if s.speed = .none then .fs else s.speed,
    lastT := none, fault := none, winActive := true, bufActive := true,
    sumDp := weight lv.dp, sumDm := weight lv.dm, winEnd := .bin 0#64 }

/-- An attempt whose open window completes the first byte `b` (R97), at the speed whose pattern it is. -/
def stageSync (b : Byte) (s : State) : State :=
  let bit := b.getLsbD 7
  { stageWindow ⟨bit, !bit⟩ s with
    st := .detectSync, speed := if b = 0xd5#8 then .ls else .fs,
    bytes := [], curVal := b &&& 0x7f#8, curN := 7#4, se0Count := 0#2 }

/-- A full-speed attempt whose open window is the J of an EOP after a SYNC byte, the PID byte `b` and two zero bytes (R98). -/
def stagePid (b : Byte) (s : State) : State :=
  { stageWindow ⟨true, false⟩ s with
    st := .receive, speed := .fs, bytes := [0x2a#8, b, 0#8, 0#8], se0Count := 2#2 }

/-- The state in which the next step runs the row of a word (log 16). -/
def stage (c : Code) (s : State) : State :=
  match c with
  | .sample w => present (.sample w) s
  | .hint h => present (.reset h) s
  | .line l => stageWindow ⟨l.getLsbD 1, l.getLsbD 0⟩ s
  | .sync b => stageSync b s
  | .pid b => stagePid b s

end Sys2Proof.Machine
end

