-- ==== Sys2Proof/Machine/Step.lean ====
section
/-! DEFINITION. The step: one input action (R4). -/

namespace Sys2Proof.Machine

/-- One step: the next pending input action is taken and run (R17, R45); with none pending nothing happens (R161, R167). -/
def step (s : State) : Host.Outcome State Fault Refusal :=
  match fetch s with
  | none => .next s
  | some (i, s') =>
    match exec i s' with
    | .next t => .next (advance i t)
    | .fault f => .fault f
    | .refused r => .refused r

/-- The state in which the next step runs the row that `decodeTableWord` reads from these bits (log 15, 16). -/
def State.withFetchWord (s : State) (nbits w : Nat) : State :=
  match decodeTableWord nbits w with
  | some i => stage (encode i) s
  | none => s

end Sys2Proof.Machine
end

