-- ==== Sys2Proof/Machine/CrcTables.lean ====
section
/-! DEFINITION. The tables of 45_crc.md (R137, R140) as the spec prints them, and the checksums computed by lookup (R133, R137).
A row of a printed table is one number, its entries from left to right. -/

namespace Sys2Proof.Machine

/-- Entry `j` of a row of `len` entries of `digits` bits each, counted from the left. -/
def rowEntry (digits len row j : Nat) : Nat := row >>> (digits * (len - 1 - j)) % 2 ^ digits

/-- The rows of `T16`: row `r` is `T16[8r] .. T16[8r+7]` (R137), part 0. -/
def t16Rows0 : List Nat :=
  [0x0000c0c1c1810140c30103c00280c241,
   0xc60106c00780c7410500c5c1c4810440,
   0xcc010cc00d80cd410f00cfc1ce810e40,
   0x0a00cac1cb810b40c90109c00880c841,
   0xd80118c01980d9411b00dbc1da811a40,
   0x1e00dec1df811f40dd011dc01c80dc41,
   0x1400d4c1d5811540d70117c01680d641,
   0xd20112c01380d3411100d1c1d0811040]

/-- The rows of `T16`: row `r` is `T16[8r] .. T16[8r+7]` (R137), part 1. -/
def t16Rows1 : List Nat :=
  [0xf00130c03180f1413300f3c1f2813240,
   0x3600f6c1f7813740f50135c03480f441,
   0x3c00fcc1fd813d40ff013fc03e80fe41,
   0xfa013ac03b80fb413900f9c1f8813840,
   0x2800e8c1e9812940eb012bc02a80ea41,
   0xee012ec02f80ef412d00edc1ec812c40,
   0xe40124c02580e5412700e7c1e6812640,
   0x2200e2c1e3812340e10121c02080e041]

/-- The rows of `T16`: row `r` is `T16[8r] .. T16[8r+7]` (R137), part 2. -/
def t16Rows2 : List Nat :=
  [0xa00160c06180a1416300a3c1a2816240,
   0x6600a6c1a7816740a50165c06480a441,
   0x6c00acc1ad816d40af016fc06e80ae41,
   0xaa016ac06b80ab416900a9c1a8816840,
   0x7800b8c1b9817940bb017bc07a80ba41,
   0xbe017ec07f80bf417d00bdc1bc817c40,
   0xb40174c07580b5417700b7c1b6817640,
   0x7200b2c1b3817340b10171c07080b041]

/-- The rows of `T16`: row `r` is `T16[8r] .. T16[8r+7]` (R137), part 3. -/
def t16Rows3 : List Nat :=
  [0x500090c191815140930153c052809241,
   0x960156c057809741550095c194815440,
   0x9c015cc05d809d415f009fc19e815e40,
   0x5a009ac19b815b40990159c058809841,
   0x880148c0498089414b008bc18a814a40,
   0x4e008ec18f814f408d014dc04c808c41,
   0x440084c185814540870147c046808641,
   0x820142c043808341410081c180814040]

/-- The rows of `T16`: row `r` is `T16[8r] .. T16[8r+7]` (R137). -/
def t16Rows : List Nat := t16Rows0 ++ t16Rows1 ++ t16Rows2 ++ t16Rows3

/-- `T16[i]` (R137). -/
def t16 (i : Byte) : BitVec 16 := BitVec.ofNat 16 (rowEntry 16 8 (t16Rows.getD (i.toNat / 8) 0) (i.toNat % 8))

/-- `CRC16(p)` by table: the byte step is `crc <- (crc >> 8) ^ T16[(crc ^ b) & 0xff]` (R137). -/
def crc16Table (p : List Byte) : BitVec 16 :=
  p.foldl (fun (crc : BitVec 16) b => crc >>> 8 ^^^ t16 ((crc ^^^ b.setWidth 16).setWidth 8)) 0xffff#16 ^^^ 0xffff#16

/-- The rows of the table of `CRC5_DOC`: row `r` is `CRC5(32r) .. CRC5(32r + 31)` (R140), part 0. -/
def crc5DocRows0 : List Nat :=
  [0x080d02071c19161305000f0a11141b1e1217181d06030c091f1a15100b0e0104,
   0x191c13160d08070214111e1b00050a0f0306090c17121d180e0b04011a1f1015,
   0x0f0a05001b1e11140207080d16131c1915101f1a01040b0e181d12170c090603,
   0x1e1b14110a0f00051316191c07020d0804010e0b10151a1f090c03061d181712,
   0x06030c091217181d0b0e01041f1a15101c191613080d020711141b1e05000f0a,
   0x17121d180306090c1a1f10150e0b04010d080702191c131600050a0f14111e1b,
   0x01040b0e15101f1a0c090603181d12171b1e11140f0a050016131c190207080d,
   0x10151a1f04010e0b1d181712090c03060a0f00051e1b141107020d081316191c,
   0x14111e1b00050a0f191c13160d0807020e0b04011a1f10150306090c17121d18,
   0x05000f0a11141b1e080d02071c1916131f1a15100b0e01041217181d06030c09,
   0x1316191c07020d081e1b14110a0f0005090c03061d18171204010e0b10151a1f,
   0x0207080d16131c190f0a05001b1e1114181d12170c09060315101f1a01040b0e,
   0x1a1f10150e0b040117121d180306090c00050a0f14111e1b0d080702191c1316,
   0x0b0e01041f1a151006030c091217181d11141b1e05000f0a1c191613080d0207,
   0x1d181712090c030610151a1f04010e0b07020d081316191c0a0f00051e1b1411,
   0x0c090603181d121701040b0e15101f1a16131c190207080d1b1e11140f0a0500]

/-- The rows of the table of `CRC5_DOC`: row `r` is `CRC5(32r) .. CRC5(32r + 31)` (R140), part 1. -/
def crc5DocRows1 : List Nat :=
  [0x15101f1a01040b0e181d12170c0906030f0a05001b1e11140207080d16131c19,
   0x04010e0b10151a1f090c03061d1817121e1b14110a0f00051316191c07020d08,
   0x1217181d06030c091f1a15100b0e0104080d02071c19161305000f0a11141b1e,
   0x0306090c17121d180e0b04011a1f1015191c13160d08070214111e1b00050a0f,
   0x1b1e11140f0a050016131c190207080d01040b0e15101f1a0c090603181d1217,
   0x0a0f00051e1b141107020d081316191c10151a1f04010e0b1d181712090c0306,
   0x1c191613080d020711141b1e05000f0a06030c091217181d0b0e01041f1a1510,
   0x0d080702191c131600050a0f14111e1b17121d180306090c1a1f10150e0b0401,
   0x090c03061d18171204010e0b10151a1f1316191c07020d081e1b14110a0f0005,
   0x181d12170c09060315101f1a01040b0e0207080d16131c190f0a05001b1e1114,
   0x0e0b04011a1f10150306090c17121d1814111e1b00050a0f191c13160d080702,
   0x1f1a15100b0e01041217181d06030c0905000f0a11141b1e080d02071c191613,
   0x07020d081316191c0a0f00051e1b14111d181712090c030610151a1f04010e0b,
   0x16131c190207080d1b1e11140f0a05000c090603181d121701040b0e15101f1a,
   0x00050a0f14111e1b0d080702191c13161a1f10150e0b040117121d180306090c,
   0x11141b1e05000f0a1c191613080d02070b0e01041f1a151006030c091217181d]

/-- The rows of the table of `CRC5_DOC`: row `r` is `CRC5(32r) .. CRC5(32r + 31)` (R140), part 2. -/
def crc5DocRows2 : List Nat :=
  [0x17121d180306090c1a1f10150e0b04010d080702191c131600050a0f14111e1b,
   0x06030c091217181d0b0e01041f1a15101c191613080d020711141b1e05000f0a,
   0x10151a1f04010e0b1d181712090c03060a0f00051e1b141107020d081316191c,
   0x01040b0e15101f1a0c090603181d12171b1e11140f0a050016131c190207080d,
   0x191c13160d08070214111e1b00050a0f0306090c17121d180e0b04011a1f1015,
   0x080d02071c19161305000f0a11141b1e1217181d06030c091f1a15100b0e0104,
   0x1e1b14110a0f00051316191c07020d0804010e0b10151a1f090c03061d181712,
   0x0f0a05001b1e11140207080d16131c1915101f1a01040b0e181d12170c090603,
   0x0b0e01041f1a151006030c091217181d11141b1e05000f0a1c191613080d0207,
   0x1a1f10150e0b040117121d180306090c00050a0f14111e1b0d080702191c1316,
   0x0c090603181d121701040b0e15101f1a16131c190207080d1b1e11140f0a0500,
   0x1d181712090c030610151a1f04010e0b07020d081316191c0a0f00051e1b1411,
   0x05000f0a11141b1e080d02071c1916131f1a15100b0e01041217181d06030c09,
   0x14111e1b00050a0f191c13160d0807020e0b04011a1f10150306090c17121d18,
   0x0207080d16131c190f0a05001b1e1114181d12170c09060315101f1a01040b0e,
   0x1316191c07020d081e1b14110a0f0005090c03061d18171204010e0b10151a1f]

/-- The rows of the table of `CRC5_DOC`: row `r` is `CRC5(32r) .. CRC5(32r + 31)` (R140), part 3. -/
def crc5DocRows3 : List Nat :=
  [0x0a0f00051e1b141107020d081316191c10151a1f04010e0b1d181712090c0306,
   0x1b1e11140f0a050016131c190207080d01040b0e15101f1a0c090603181d1217,
   0x0d080702191c131600050a0f14111e1b17121d180306090c1a1f10150e0b0401,
   0x1c191613080d020711141b1e05000f0a06030c091217181d0b0e01041f1a1510,
   0x04010e0b10151a1f090c03061d1817121e1b14110a0f00051316191c07020d08,
   0x15101f1a01040b0e181d12170c0906030f0a05001b1e11140207080d16131c19,
   0x0306090c17121d180e0b04011a1f1015191c13160d08070214111e1b00050a0f,
   0x1217181d06030c091f1a15100b0e0104080d02071c19161305000f0a11141b1e,
   0x16131c190207080d1b1e11140f0a05000c090603181d121701040b0e15101f1a,
   0x07020d081316191c0a0f00051e1b14111d181712090c030610151a1f04010e0b,
   0x11141b1e05000f0a1c191613080d02070b0e01041f1a151006030c091217181d,
   0x00050a0f14111e1b0d080702191c13161a1f10150e0b040117121d180306090c,
   0x181d12170c09060315101f1a01040b0e0207080d16131c190f0a05001b1e1114,
   0x090c03061d18171204010e0b10151a1f1316191c07020d081e1b14110a0f0005,
   0x1f1a15100b0e01041217181d06030c0905000f0a11141b1e080d02071c191613,
   0x0e0b04011a1f10150306090c17121d1814111e1b00050a0f191c13160d080702]

/-- The rows of the table of `CRC5_DOC`: row `r` is `CRC5(32r) .. CRC5(32r + 31)` (R140). -/
def crc5DocRows : List Nat := crc5DocRows0 ++ crc5DocRows1 ++ crc5DocRows2 ++ crc5DocRows3

/-- The rows of the table of `CRC5_USB` (R140), part 0. -/
def crc5UsbRows0 : List Nat :=
  [0x021d150a051a120d0c131b040b141c031e01091619060e11100f07181708001f,
   0x130c041b140b031c1d020a151a050d120f10180708171f00011e16090619110e,
   0x09161e010e1119060718100f001f1708150a021d120d051a1b040c131c030b14,
   0x18070f101f0008171609011e110e0619041b130c031c140b0a151d020d121a05,
   0x140b031c130c041b1a050d121d020a1508171f000f1018070619110e011e1609,
   0x051a120d021d150a0b141c030c131b0419060e111e0109161708001f100f0718,
   0x1f00081718070f10110e06191609011e031c140b041b130c0d121a050a151d02,
   0x0e11190609161e01001f17080718100f120d051a150a021d1c030b141b040c13,
   0x0718100f001f170809161e010e1119061b040c131c030b14150a021d120d051a,
   0x1609011e110e061918070f101f0008170a151d020d121a05041b130c031c140b,
   0x0c131b040b141c03021d150a051a120d100f07181708001f1e01091619060e11,
   0x1d020a151a050d12130c041b140b031c011e16090619110e0f10180708171f00,
   0x110e06191609011e1f00081718070f100d121a050a151d02031c140b041b130c,
   0x001f17080718100f0e11190609161e011c030b141b040c13120d051a150a021d,
   0x1a050d121d020a15140b031c130c041b0619110e011e160908171f000f101807,
   0x0b141c030c131b04051a120d021d150a1708001f100f071819060e111e010916]

/-- The rows of the table of `CRC5_USB` (R140), part 1. -/
def crc5UsbRows1 : List Nat :=
  [0x08171f000f1018070619110e011e1609140b031c130c041b1a050d121d020a15,
   0x19060e111e0109161708001f100f0718051a120d021d150a0b141c030c131b04,
   0x031c140b041b130c0d121a050a151d021f00081718070f10110e06191609011e,
   0x120d051a150a021d1c030b141b040c130e11190609161e01001f17080718100f,
   0x1e01091619060e11100f07181708001f021d150a051a120d0c131b040b141c03,
   0x0f10180708171f00011e16090619110e130c041b140b031c1d020a151a050d12,
   0x150a021d120d051a1b040c131c030b1409161e010e1119060718100f001f1708,
   0x041b130c031c140b0a151d020d121a0518070f101f0008171609011e110e0619,
   0x0d121a050a151d02031c140b041b130c110e06191609011e1f00081718070f10,
   0x1c030b141b040c13120d051a150a021d001f17080718100f0e11190609161e01,
   0x0619110e011e160908171f000f1018071a050d121d020a15140b031c130c041b,
   0x1708001f100f071819060e111e0109160b141c030c131b04051a120d021d150a,
   0x1b040c131c030b14150a021d120d051a0718100f001f170809161e010e111906,
   0x0a151d020d121a05041b130c031c140b1609011e110e061918070f101f000817,
   0x100f07181708001f1e01091619060e110c131b040b141c03021d150a051a120d,
   0x011e16090619110e0f10180708171f001d020a151a050d12130c041b140b031c]

/-- The rows of the table of `CRC5_USB` (R140), part 2. -/
def crc5UsbRows2 : List Nat :=
  [0x1609011e110e061918070f101f0008170a151d020d121a05041b130c031c140b,
   0x0718100f001f170809161e010e1119061b040c131c030b14150a021d120d051a,
   0x1d020a151a050d12130c041b140b031c011e16090619110e0f10180708171f00,
   0x0c131b040b141c03021d150a051a120d100f07181708001f1e01091619060e11,
   0x001f17080718100f0e11190609161e011c030b141b040c13120d051a150a021d,
   0x110e06191609011e1f00081718070f100d121a050a151d02031c140b041b130c,
   0x0b141c030c131b04051a120d021d150a1708001f100f071819060e111e010916,
   0x1a050d121d020a15140b031c130c041b0619110e011e160908171f000f101807,
   0x130c041b140b031c1d020a151a050d120f10180708171f00011e16090619110e,
   0x021d150a051a120d0c131b040b141c031e01091619060e11100f07181708001f,
   0x18070f101f0008171609011e110e0619041b130c031c140b0a151d020d121a05,
   0x09161e010e1119060718100f001f1708150a021d120d051a1b040c131c030b14,
   0x051a120d021d150a0b141c030c131b0419060e111e0109161708001f100f0718,
   0x140b031c130c041b1a050d121d020a1508171f000f1018070619110e011e1609,
   0x0e11190609161e01001f17080718100f120d051a150a021d1c030b141b040c13,
   0x1f00081718070f10110e06191609011e031c140b041b130c0d121a050a151d02]

/-- The rows of the table of `CRC5_USB` (R140), part 3. -/
def crc5UsbRows3 : List Nat :=
  [0x1c030b141b040c13120d051a150a021d001f17080718100f0e11190609161e01,
   0x0d121a050a151d02031c140b041b130c110e06191609011e1f00081718070f10,
   0x1708001f100f071819060e111e0109160b141c030c131b04051a120d021d150a,
   0x0619110e011e160908171f000f1018071a050d121d020a15140b031c130c041b,
   0x0a151d020d121a05041b130c031c140b1609011e110e061918070f101f000817,
   0x1b040c131c030b14150a021d120d051a0718100f001f170809161e010e111906,
   0x011e16090619110e0f10180708171f001d020a151a050d12130c041b140b031c,
   0x100f07181708001f1e01091619060e110c131b040b141c03021d150a051a120d,
   0x19060e111e0109161708001f100f0718051a120d021d150a0b141c030c131b04,
   0x08171f000f1018070619110e011e1609140b031c130c041b1a050d121d020a15,
   0x120d051a150a021d1c030b141b040c130e11190609161e01001f17080718100f,
   0x031c140b041b130c0d121a050a151d021f00081718070f10110e06191609011e,
   0x0f10180708171f00011e16090619110e130c041b140b031c1d020a151a050d12,
   0x1e01091619060e11100f07181708001f021d150a051a120d0c131b040b141c03,
   0x041b130c031c140b0a151d020d121a0518070f101f0008171609011e110e0619,
   0x150a021d120d051a1b040c131c030b1409161e010e1119060718100f001f1708]

/-- The rows of the table of `CRC5_USB` (R140). -/
def crc5UsbRows : List Nat := crc5UsbRows0 ++ crc5UsbRows1 ++ crc5UsbRows2 ++ crc5UsbRows3

/-- `T5[n]` from the printed rows of a variant (R133, R140). -/
def t5 (rows : List Nat) (n : BitVec 11) : BitVec 5 :=
  BitVec.ofNat 5 (rowEntry 8 32 (rows.getD (n.toNat / 32) 0) (n.toNat % 32))

/-- `CRC5(n)` by lookup (R133). -/
def crc5Table (order : Crc5Order) (n : BitVec 11) : BitVec 5 :=
  match order with
  | .docMsbFirst => t5 crc5DocRows n
  | .usbReflected => t5 crc5UsbRows n

end Sys2Proof.Machine
end

