-- ==== Sys2Proof/Machine/Outputs.lean ====
section
/-! DEFINITION. The three strobes of a FEED (60_exceptions.md R155), and the causes of R141 that its records, its SYNC check
and its refusal show. No register holds them. -/

namespace Sys2Proof.Machine

/-- The records that a step from `before` to `after` put on the outputs. -/
def emitted (before after : State) : List (Nat × Output) := after.log.drop before.log.length

/-- The packet strobe of the step (R155). -/
def packetStrobe (before after : State) : Bool :=
  (emitted before after).any fun e => match e.2 with
    | .packet _ => true
    | .diag _ _ => false

/-- The diagnostic strobe of the step (R155). -/
def diagStrobe (before after : State) : Bool :=
  (emitted before after).any fun e => match e.2 with
    | .packet _ => false
    | .diag _ _ => true

/-- The fault indication (R155). -/
def faultIndication (s : State) : Bool := s.fault.isSome

/-- The condition that a packet record shows (R144, R145): a checksum that does not match, or a recognised PID with too few
bytes. -/
def Packet.cause : Packet → Option Cause
  | .raw b => if (memRead b 1).any namedPids.contains then some .malformedPacket else none
  | .sof _ _ ok _ => if ok then none else some .checksumMismatch
  | .token _ _ _ _ ok _ => if ok then none else some .checksumMismatch
  | .data _ _ _ ok _ => if ok then none else some .checksumMismatch
  | .handshake _ _ => none

/-- The condition that SYNC_CHECK meets on the first byte `b` (R143); nothing is output for it. -/
def syncCause (spd : Speed) (b : Byte) : Option Cause :=
  match syncPattern spd with
  | .ok p => if b = p then none else some .syncMismatch
  | .error _ => none

/-- The cause of a refusal (R141, R147). -/
def Refusal.cause : Refusal → Option Cause
  | .reservedHint => some .reservedHint
  | _ => none

/-- The condition that a record shows: an SE1 diagnostic is a SignalFault (R142). -/
def Output.cause : Output → Option Cause
  | .packet p => p.cause
  | .diag .se1Detected _ => some .signalFault

end Sys2Proof.Machine
end

