-- ==== Sys2Proof/Machine/Stream.lean ====
section
/-! DEFINITION. The stream notation of 30_encoding.md R64: line symbols to the input actions of a generated stream. It is
no part of the block; it writes its inputs (log 20). -/

namespace Sys2Proof.Machine

/-- A line symbol of `BITS`. -/
inductive Symbol
  | j
  | k
  | se0
  | se1
  deriving DecidableEq, Repr

/-- The levels that show a symbol (R13, R52). -/
def Symbol.levels (lowSpeed : Bool) : Symbol → Levels
  | .j => ⟨!lowSpeed, lowSpeed⟩
  | .k => ⟨lowSpeed, !lowSpeed⟩
  | .se0 => ⟨false, false⟩
  | .se1 => ⟨true, true⟩

/-- J and K exchanged. -/
def Symbol.toggle : Symbol → Symbol
  | .j => .k
  | .k => .j
  | .se0 => .se0
  | .se1 => .se1

/-- The bits of a byte, LSB-first (R39). -/
def byteBits (b : Byte) : List Bool := (List.range 8).map b.getLsbD

/-- The NRZI encoding of a bit sequence from the line state `cur`: a 0 toggles, a 1 keeps. -/
def nrziEncode (cur : Symbol) : List Bool → List Symbol
  | [] => []
  | true :: bits => cur :: nrziEncode cur bits
  | false :: bits => cur.toggle :: nrziEncode cur.toggle bits

/-- The bits with a 0, which toggles, after every six consecutive 1 bits (`PACKET.STUFF`); `ones` 1 bits came before. -/
def stuffBits (ones : Nat) : List Bool → List Bool
  | [] => []
  | false :: bits => false :: stuffBits 0 bits
  | true :: bits => if ones = 5 then true :: false :: stuffBits 0 bits else true :: stuffBits (ones + 1) bits

/-- The directives that append symbols. -/
inductive Directive
  | bits (symbols : List Symbol)
  | packet (bytes : List Byte)
  | packetStuff (bytes : List Byte)
  deriving DecidableEq, Repr

/-- The symbols of a directive; a packet is the NRZI encoding of `0x80` and its bytes from J, then SE0 SE0 J. -/
def Directive.symbols : Directive → List Symbol
  | .bits symbols => symbols
  | .packet bytes => nrziEncode .j ((0x80#8 :: bytes).flatMap byteBits) ++ [.se0, .se0, .j]
  | .packetStuff bytes => nrziEncode .j (stuffBits 0 ((0x80#8 :: bytes).flatMap byteBits)) ++ [.se0, .se0, .j]

/-- A stream: `HINT`, the speed its symbols are written in, `SPB`, `TEDGE`, `IDLE`, the symbol directives, `TAIL`, and literal
`SAMPLE`s after them. -/
structure Stream where
  hint     : Hint
  lowSpeed : Bool
  spb      : Nat := 4
  tEdge    : Binary64 := 0x3eb0c6f7a0b5ed8d#64
  idle     : Nat := 6
  body     : List Directive
  tail     : Nat := 3
  literal  : List (Binary64 × Binary64 × Binary64) := []
  deriving DecidableEq, Repr

/-- 3.0 V on a high line, 0.2 V on a low line. -/
def voltage (high : Bool) : Binary64 := if high then 0x4008000000000000#64 else 0x3fc999999999999a#64

/-- The input action of one sample. -/
def sampleInput (t vdp vdm : Binary64) : Input := .sample (t ++ vdp ++ vdm)

/-- `k / 2` in binary64. -/
def halfOf (k : Nat) : Binary64 := ofBits false (roundBits (k * 2 ^ 1073) 1)

/-- The spacing `d = P / n_spb`. -/
def Stream.spacing (x : Stream) : Binary64 :=
  fdiv (if x.lowSpeed then periodLs else periodFs) (halfOf (2 * x.spb))

/-- The sample at `t` that shows a symbol. -/
def Stream.show (x : Stream) (t : Binary64) (y : Symbol) : Input :=
  sampleInput t (voltage (y.levels x.lowSpeed).dp) (voltage (y.levels x.lowSpeed).dm)

/-- All symbols, those of the tail included. -/
def Stream.symbols (x : Stream) : List Symbol := x.body.flatMap Directive.symbols ++ List.replicate x.tail .j

/-- The samples of one bit time: `n_spb` of them, from number `j` on, at `TEDGE + (j + 0.5) * d`. -/
def Stream.bitTime (x : Stream) (j : Nat) (y : Symbol) : List Input :=
  (List.range x.spb).map fun i => x.show (fadd x.tEdge (fmul (halfOf (2 * (j + i) + 1)) x.spacing)) y

/-- The samples of a list of symbols, from number `j` on. -/
def Stream.bitTimes (x : Stream) (j : Nat) : List Symbol → List Input
  | [] => []
  | y :: ys => x.bitTime j y ++ x.bitTimes (j + x.spb) ys

/-- The input actions of a stream: the reset, the idle samples at `TEDGE - (k - 0.5) * d` for `k = n .. 1`, the sample at
`TEDGE`, the symbols, and the literal samples. -/
def Stream.inputs (x : Stream) : List Input :=
  .reset x.hint.code ::
    ((List.range x.idle).reverse.map fun k =>
      x.show (fadd x.tEdge (fmul (halfOf (2 * k + 1)) x.spacing ^^^ 0x8000000000000000#64)) .j) ++
    (match x.symbols with
      | [] => []
      | y :: _ => [x.show x.tEdge y]) ++
    x.bitTimes 0 x.symbols ++
    x.literal.map fun ⟨t, p, m⟩ => sampleInput t p m

end Sys2Proof.Machine
end

