-- ==== Sys2Proof/Safety.lean ====
section
/-! DEFINITION. What holds of the state between steps, and the terms that claims use. -/

namespace Sys2Proof.Machine

/-- An attempt is in progress: `S.ST` is DETECT_SYNC or RECEIVE (R18, R25). -/
def inAttempt (s : State) : Bool := s.st == .detectSync || s.st == .receive

/-- What holds of the state between any two steps. -/
structure State.Inv (s : State) : Prop where
  /-- `GOT_SE1` and `GOT_EOP` are never held between FEEDs (R18, R100). -/
  st_held : s.st ≠ .gotSe1 ∧ s.st ≠ .gotEop
  /-- A window is active exactly in DETECT_SYNC and RECEIVE (R25). -/
  window_active : s.winActive = inAttempt s
  /-- A packet buffer exists exactly while a window is active (R26). -/
  buffer_active : s.bufActive = s.winActive
  /-- Before the first byte completes the buffer is empty (R27). -/
  bytes_detect : s.st = .detectSync → s.bytes = []
  /-- After acquisition it starts with the SYNC byte of the speed (R27). -/
  bytes_receive : s.st = .receive → ∃ b rest, s.bytes = b :: rest ∧ syncPattern s.speed = .ok b
  /-- Outside an attempt the buffer, the byte accumulator and the NRZI history are empty (R27, R29, R99). -/
  outside : inAttempt s = false → s.bytes = [] ∧ s.curVal = 0#8 ∧ s.curN = 0#4 ∧ s.prevRaw = none
  /-- The buffer is within its capacity (R27, R38). -/
  bytes_cap : Memory.wf s.cfg.bufCap s.bytes = true
  /-- `0 <= CUR_N <= 7`, and bits of CUR_VAL at or above CUR_N are 0 (R28). -/
  partial_byte : s.curN.toNat ≤ 7 ∧ s.curVal.toNat < 2 ^ s.curN.toNat
  /-- `SE0_COUNT` is 0 to 2 (R30). -/
  se0_range : s.se0Count.toNat ≤ 2
  /-- Once UNKNOWN is left the speed is known and a previous sample exists (R20, R70, R90). -/
  known : s.st ≠ .unknown → s.speed ≠ .none ∧ s.prevLv ≠ none
  /-- `PREV_LV` and `LAST_T` are written together (R89), and a timestamp that was accepted is finite (R166). -/
  history : s.prevLv.isSome = s.lastT.isSome ∧ ∀ u, s.lastT = some u → finite u = true
  /-- Under LAST_SYNC_BIT the NRZI history is never empty in RECEIVE (R104, R108). -/
  seed : s.cfg.nrziSeed = .lastSyncBit → s.st = .receive → s.prevRaw ≠ none
  /-- The sums are within ACC_BITS (R74). -/
  sums : accOverflows s.cfg.accBits s.sumDp = false ∧ accOverflows s.cfg.accBits s.sumDm = false
  /-- A forced hint fixes the speed for the run (R19, R69). -/
  forced : s.hint ≠ .auto → s.speed = s.hint.speed
  /-- Records are in the order of their FEEDs, one at most to a FEED (R45, R150). -/
  log_order : s.log.Pairwise (fun a b => a.1 < b.1) ∧ ∀ e ∈ s.log, e.1 < s.feedIndex
  /-- Every packet record is of more than one byte (R98). -/
  packets : ∀ n p, (n, Output.packet p) ∈ s.log → 2 ≤ p.rawBytes.length

/-- The block is not stuck and the sample keeps the input contract (R88, R166): a finite timestamp not below the previous
one, and no NaN voltage. -/
def accepts (t vdp vdm : Binary64) (s : State) : Bool :=
  s.fault.isNone && finite t && !isNaN vdp && !isNaN vdm && !(s.lastT.any (flt t ·))

/-- The raw bit and the new `S.SE0_COUNT` of a line row whose window is forwarded (R95, R96, R103); `none` for an EOP, for
SE1 and for every other row. A differential window after two SE0 windows is forwarded only at the speed where it is K. -/
def forwarded (i : Instr) (s : State) : Option (Bool × BitVec 2) :=
  match i with
  | .se0 => some (false, BitVec.ofNat 2 (min (s.se0Count.toNat + 1) 2))
  | .diff01 => if 2 ≤ s.se0Count.toNat ∧ s.speed ≠ .fs then none else some (false, 0#2)
  | .diff10 => if 2 ≤ s.se0Count.toNat ∧ s.speed ≠ .ls then none else some (true, 0#2)
  | _ => none

/-- The data bit of a raw bit: the raw bit itself in DETECT_SYNC (R105), in RECEIVE 1 iff it equals the previous raw bit
(R106); `none` where the window only seeds the history (R108). -/
def dataBit (s : State) (raw : Bool) : Option Bool :=
  if s.st = .detectSync then some raw else s.prevRaw.map (raw == ·)

/-- The byte whose bits below `k` are `val` and whose bit `k` is `bit`, as a sum of powers of two (R110). -/
def addBit (val : BitVec 8) (k : Nat) (bit : Bool) : Byte := BitVec.ofNat 8 (val.toNat + if bit then 2 ^ k else 0)

/-- `E_k`, the closing time of the k-th window of an attempt that opened at `t`; `E_0` is the edge itself (R82). -/
def windowEnd (a : TimeArith) (spd : Speed) (t : Binary64) : Nat → Except Stop Time
  | 0 => .ok (Time.ofSample a t)
  | k + 1 => do
    let e ← windowEnd a spd t k
    e.addPeriod spd

/-- The sums of a window that received these samples, in unbounded integers (R73). -/
def windowSums (samples : List Levels) : Int × Int :=
  samples.foldl (fun p lv => (p.1 + weight lv.dp, p.2 + weight lv.dm)) (0, 0)

/-- The operations of a list of resolved pairs run one after another, as long as each answers a next state. -/
def runLine : List Levels → State → Host.Outcome State Fault Refusal
  | [], s => .next s
  | lv :: rest, s =>
    match exec (decodeLine (lineCode lv)) s with
    | .next t => runLine rest t
    | .fault f => .fault f
    | .refused r => .refused r

end Sys2Proof.Machine
end

