-- ==== Sys2Proof/Certificates/Slice0/Obligations.lean ====
section
/-! DEFINITION. The statements about the model. A next state is written out as the state before it with the fields that
change, so each result is a frame as well. `latch` stands for `sampleT`, which is the model's own (log 6). -/

section

open Sys2Proof Sys2Proof.Machine

/-! ## Encodings -/

/-- R48, R49, R52, R53, R54: the encoder loses no bit of an operation. -/
def Obligations.DecodeInvertsEncode : Prop :=
  ∀ i : Instr, i.wf = true → decode (encode i) = .ok i

/-- R48, R49, R52, R53, R54: a word that decodes is the encoding of what it decodes to, and only the reserved hint
decodes to an operation that is not well-formed. -/
def Obligations.EncodeInvertsDecode : Prop :=
  ∀ (c : Code) (i : Instr), decode c = .ok i → encode i = c ∧ (i.wf = true ∨ i = .reset 3#2)

/-- spec/opcode_table.json: the decoder answers the row that covers the word, RAW after the nine PIDs, and rejects exactly
the words that no row covers, the first bytes that are neither SYNC pattern. -/
def Obligations.DecoderFollowsOpcodeTable : Prop :=
  ∀ c : Code,
    match decode c with
    | .ok i => (tableRow c).map Row.mnemonic = some i.mnemonic
    | .error r => tableRow c = none ∧ ∃ b, c = .sync b ∧ r = .notSync b ∧ b ≠ 0x2a#8 ∧ b ≠ 0xd5#8

/-- spec/opcode_table.json: two rows cover one word only where the later one is RAW. -/
def Obligations.OpcodeRowsOverlapOnlyInRaw : Prop :=
  opcodeTable.Pairwise fun a b => ∀ c : Code, a.covers c = true → b.covers c = true → b.mnemonic = "RAW"

/-- R48, R52, R53, R54: words written out from the spec's encodings, one at least of each space; the sample is the first
one of program P1. -/
def Obligations.WordsDecodeAsWritten : Prop :=
  decode (.sample (0x3eadb5abd74229ff4008000000000000#128 ++ 0x3fc999999999999a#64)) =
      .ok (.feed 0x3eadb5abd74229ff#64 0x4008000000000000#64 0x3fc999999999999a#64) ∧
    decode (.hint 0b10#2) = .ok (.reset 0b10#2) ∧
    decode (.line 0b01#2) = .ok .diff01 ∧ decode (.line 0b10#2) = .ok .diff10 ∧
    decode (.sync 0b00101010#8) = .ok .syncFs ∧ decode (.sync 0b11010101#8) = .ok .syncLs ∧
    decode (.pid 0b10100101#8) = .ok .sof ∧ decode (.pid 0b11100001#8) = .ok .outToken ∧
    decode (.pid 0b01001011#8) = .ok .data1 ∧ decode (.pid 0b00011110#8) = .ok .stall ∧
    decode (.pid 0b10110100#8) = .ok (.raw 0xb4#8)

/-! ## The step -/

/-- R17, R45: a step takes the oldest input action and runs what its word decodes to; a FEED moves the index on by one,
whatever it answers, and a RESET leaves it. That inputs wait in a list, and the index after a RESET, are the model's (log 4, 5). -/
def Obligations.StepRunsDecodedInput : Prop :=
  ∀ (s : State) (rest : List Input),
    (∀ w : BitVec 192, s.inputs = .sample w :: rest →
      decode (.sample w) = .ok (.feed (w.extractLsb' 128 64) (w.extractLsb' 64 64) (w.extractLsb' 0 64)) ∧
      step s = match exec (.feed (w.extractLsb' 128 64) (w.extractLsb' 64 64) (w.extractLsb' 0 64))
          { s with inputs := rest } with
        | .next t => .next { t with feedIndex := t.feedIndex + 1 }
        | .fault f => .fault f
        | .refused r => .refused r) ∧
    (∀ h : BitVec 2, s.inputs = .reset h :: rest →
      decode (.hint h) = .ok (.reset h) ∧ step s = exec (.reset h) { s with inputs := rest })

/-- R161, R167: with no input nothing happens. -/
def Obligations.StepWithoutInputDoesNothing : Prop :=
  ∀ s : State, s.inputs = [] → step s = .next s

/-! ## FEED: the contract, the faults, the commit -/

/-- R149. -/
def Obligations.StuckUntilReset : Prop :=
  ∀ (s : State) (c : FaultCode), s.fault = some c →
    (∀ t vdp vdm, exec (.feed t vdp vdm) s = .next s) ∧
    (∀ h, h ≠ 3#2 → ∃ u, exec (.reset h) s = .next u ∧ u.fault = none) ∧
    (∀ u, step s = .next u → u.fault = some c ∨ ∃ h rest, s.inputs = .reset h :: rest)

/-- R88, R151 (1 to 4): which breach of the contract is found first; every one leaves all else as it was. -/
def Obligations.ContractBreachOrder : Prop :=
  ∀ (s : State) (t vdp vdm : Binary64), s.fault = none →
    (finite t = false → exec (.feed t vdp vdm) s = .next { s with fault := some .nonfiniteTimestamp }) ∧
    (finite t = true → isNaN vdp = true ∨ isNaN vdm = true →
      exec (.feed t vdp vdm) s = .next { s with fault := some .nanVoltage }) ∧
    (∀ u, finite t = true → isNaN vdp = false → isNaN vdm = false → s.lastT = some u → flt t u = true →
      exec (.feed t vdp vdm) s = .next { s with fault := some .timestampRegression }) ∧
    (accepts t vdp vdm s = true → ∀ v, exec (.feed t vdp vdm) s = .next v → v.fault ≠ none →
      v.fault = some .accOverflow ∨ v.fault = some .bufferOverflow)

/-- R89, R148: a FEED commits its levels and its timestamp, or a fault leaves every other register and both outputs as they
were before it. -/
def Obligations.FeedCommitsOrFaultsWhole : Prop :=
  ∀ (s u : State) (t vdp vdm : Binary64), s.fault = none → exec (.feed t vdp vdm) s = .next u →
    (u.fault = none ∧ u.prevLv = some (levels vdp vdm) ∧ u.lastT = some t) ∨
    (∃ c, u = { s with fault := some c })

/-- R65, R66: a lane is HIGH iff its voltage is not below the binary64 value 0x3ff3333333333333, each lane by itself. -/
def Obligations.LevelIsThresholdComparison : Prop :=
  ∀ vdp vdm : Binary64, isNaN vdp = false → isNaN vdm = false →
    ((levels vdp vdm).dp = true ↔ scaled 0x3ff3333333333333#64 ≤ scaled vdp) ∧
    ((levels vdp vdm).dm = true ↔ scaled 0x3ff3333333333333#64 ≤ scaled vdm)

/-! ## FEED in UNKNOWN and IDLE -/

/-- R67, R68. -/
def Obligations.FeedInUnknownInfersSpeed : Prop :=
  ∀ (s : State) (t vdp vdm : Binary64), accepts t vdp vdm s = true → s.st = .unknown →
    let lv := levels vdp vdm
    let spd := if s.speed = .none ∧ lv.dp ≠ lv.dm then (if lv.dp = true then Speed.fs else Speed.ls) else s.speed
    ∃ latch, exec (.feed t vdp vdm) s = .next { s with
      speed := spd,
      st := if spd ≠ .none ∧ s.prevLv ≠ none then .idle else .unknown,
      prevLv := some lv, lastT := some t, sampleT := latch }

/-- R90, R91, R72, R77, R78: equal levels do nothing in IDLE; any change of either lane opens an attempt, whose first window
closes one period after the edge and counts the edge sample or not, as the parameter says. A sum past ACC_BITS faults. -/
def Obligations.FeedInIdleOpensAttemptOnEdge : Prop :=
  ∀ (s : State) (t vdp vdm : Binary64) (p : Levels), accepts t vdp vdm s = true → s.st = .idle → s.prevLv = some p →
    let lv := levels vdp vdm
    (p = lv → ∃ latch, exec (.feed t vdp vdm) s =
      .next { s with prevLv := some lv, lastT := some t, sampleT := latch }) ∧
    (p ≠ lv → ∀ e, windowEnd s.cfg.timeArith s.speed t 1 = .ok e →
      (s.cfg.edgeSampleCounted = true ∧ (∃ n, s.cfg.accBits = some n ∧ 2 ^ (n - 1) - 1 < 1) →
        exec (.feed t vdp vdm) s = .next { s with fault := some .accOverflow }) ∧
      (¬ (s.cfg.edgeSampleCounted = true ∧ (∃ n, s.cfg.accBits = some n ∧ 2 ^ (n - 1) - 1 < 1)) →
        ∃ latch, exec (.feed t vdp vdm) s = .next { s with
          st := .detectSync, bufActive := true, bytes := [], curVal := 0#8, curN := 0#4, prevRaw := none,
          se0Count := 0#2, winActive := true, winEnd := e,
          sumDp := if s.cfg.edgeSampleCounted then (if lv.dp then 1 else -1) else 0,
          sumDm := if s.cfg.edgeSampleCounted then (if lv.dm then 1 else -1) else 0,
          prevLv := some lv, lastT := some t, sampleT := latch }))

/-! ## FEED in an attempt -/

/-- R73, R74, R79: a sample before the window's end adds +1 or -1 to each sum; with a finite ACC_BITS a sum past
`2^(ACC_BITS-1) - 1` faults, and neither wraps nor saturates. -/
def Obligations.SampleBeforeEndIsAccumulated : Prop :=
  ∀ (s : State) (t vdp vdm : Binary64), accepts t vdp vdm s = true → inAttempt s = true →
    s.winEnd.reached t = false →
    let lv := levels vdp vdm
    let p := s.sumDp + if lv.dp then 1 else -1
    let m := s.sumDm + if lv.dm then 1 else -1
    ((∀ n, s.cfg.accBits = some n → p.natAbs ≤ 2 ^ (n - 1) - 1 ∧ m.natAbs ≤ 2 ^ (n - 1) - 1) →
      ∃ latch, exec (.feed t vdp vdm) s =
        .next { s with sumDp := p, sumDm := m, prevLv := some lv, lastT := some t, sampleT := latch }) ∧
    (∀ n, s.cfg.accBits = some n → 2 ^ (n - 1) - 1 < p.natAbs ∨ 2 ^ (n - 1) - 1 < m.natAbs →
      exec (.feed t vdp vdm) s = .next { s with fault := some .accOverflow })

/-- R92, R93, R80, R81, R83, R151: the sample that closes a window runs the LINE2 row of the resolved pair, once; where the
attempt ends the FEED commits, where it goes on the next window opens one period after the old end with the closing sample
alone in it, and a fault of either part is a fault of the whole FEED. -/
def Obligations.ClosingSampleRunsLineRow : Prop :=
  ∀ (s : State) (t vdp vdm : Binary64), accepts t vdp vdm s = true → inAttempt s = true →
    s.winEnd.reached t = true →
    let lv := levels vdp vdm
    match exec (decodeLine (lineCode (resolve s))) { s with winActive := false, sampleT := t } with
    | .refused _ => False
    | .fault f => exec (.feed t vdp vdm) s = .fault f
    | .next u =>
      (∀ c, u.fault = some c → exec (.feed t vdp vdm) s = .next { s with fault := some c }) ∧
      (u.fault = none → u.st = .idle →
        exec (.feed t vdp vdm) s = .next { u with prevLv := some lv, lastT := some t }) ∧
      (u.fault = none → u.st ≠ .idle →
        (∀ e, s.winEnd.addPeriod s.speed = .ok e → accOverflows s.cfg.accBits 1 = false →
          exec (.feed t vdp vdm) s = .next { u with
            winActive := true, winEnd := e, sumDp := if lv.dp then 1 else -1, sumDm := if lv.dm then 1 else -1,
            prevLv := some lv, lastT := some t }) ∧
        (s.speed ≠ .none → accOverflows s.cfg.accBits 1 = true →
          exec (.feed t vdp vdm) s = .next { s with fault := some .accOverflow }) ∧
        (s.speed = .none → exec (.feed t vdp vdm) s = .fault .noSpeed))

/-- R94, R99, R142: a window whose two sums are positive is a SignalFault: one diagnostic with the closing sample's
timestamp, the attempt discarded, IDLE, no packet; the sums, the window's end and the SE0 count stay. -/
def Obligations.SignalFaultEndsAttempt : Prop :=
  ∀ (s : State) (t vdp vdm : Binary64), accepts t vdp vdm s = true → inAttempt s = true →
    s.winEnd.reached t = true → 0 < s.sumDp → 0 < s.sumDm →
    ∃ latch, exec (.feed t vdp vdm) s = .next { s with
      st := .idle, winActive := false, bufActive := false, bytes := [], curVal := 0#8, curN := 0#4, prevRaw := none,
      log := s.log ++ [(s.feedIndex, .diag .se1Detected t)],
      prevLv := some (levels vdp vdm), lastT := some t, sampleT := latch }

/-- R95, R98, R99: after two SE0 windows a window that is J at the speed ends the packet: a buffer of more than one byte is
emitted as its classification, a shorter one is not, the partial byte is dropped. -/
def Obligations.EndOfPacketEmitsAndReturns : Prop :=
  ∀ (s : State) (t vdp vdm : Binary64), accepts t vdp vdm s = true → inAttempt s = true →
    s.winEnd.reached t = true → 2 ≤ s.se0Count.toNat →
    (s.speed = .fs ∧ 0 < s.sumDp ∧ s.sumDm ≤ 0) ∨ (s.speed = .ls ∧ s.sumDp ≤ 0 ∧ 0 < s.sumDm) →
    ∃ latch, exec (.feed t vdp vdm) s = .next { s with
      st := .idle, winActive := false, bufActive := false, bytes := [], curVal := 0#8, curN := 0#4, prevRaw := none,
      se0Count := 0#2,
      log := if 1 < s.bytes.length then s.log ++ [(s.feedIndex, .packet (classify s.cfg.crc5Order s.bytes))] else s.log,
      prevLv := some (levels vdp vdm), lastT := some t, sampleT := latch }

/-- log 9: where a rule would read a value that the spec says is never read, the model stops by name. No run reaches these
states. -/
def Obligations.UnreachableReadsStopByName : Prop :=
  ∀ (s : State) (t vdp vdm : Binary64),
    (accepts t vdp vdm s = true → s.st = .gotSe1 ∨ s.st = .gotEop →
      exec (.feed t vdp vdm) s = .fault .transientState) ∧
    (accepts t vdp vdm s = true → s.st = .idle → s.prevLv = none → exec (.feed t vdp vdm) s = .fault .noBaseline) ∧
    (∀ p, accepts t vdp vdm s = true → s.st = .idle → s.prevLv = some p → p ≠ levels vdp vdm → s.speed = .none →
      exec (.feed t vdp vdm) s = .fault .noSpeed) ∧
    (s.speed = .none → 2 ≤ s.se0Count.toNat → exec .diff01 s = .fault .noSpeed ∧ exec .diff10 s = .fault .noSpeed) ∧
    (s.speed = .none → exec .syncFs s = .fault .noSpeed ∧ exec .syncLs s = .fault .noSpeed)

/-! ## The rows of LINE2 -/

/-- SE1 as a row (R94); its timestamp is the latched one (log 6, 13). -/
def Obligations.Se1RowDiscardsWithDiagnostic : Prop :=
  ∀ s : State, exec .se1 s = .next { s with
    st := .idle, winActive := false, bufActive := false, bytes := [], curVal := 0#8, curN := 0#4, prevRaw := none,
    log := s.log ++ [(s.feedIndex, .diag .se1Detected s.sampleT)] }

/-- The rows DIFF_10 at full speed and DIFF_01 at low speed, after two SE0 windows, end the packet (R95, R98). -/
def Obligations.JRowAfterTwoSe0EndsPacket : Prop :=
  ∀ s : State, 2 ≤ s.se0Count.toNat →
    let ended : State := { s with
      st := .idle, winActive := false, bufActive := false, bytes := [], curVal := 0#8, curN := 0#4, prevRaw := none,
      se0Count := 0#2,
      log := if 1 < s.bytes.length then s.log ++ [(s.feedIndex, .packet (classify s.cfg.crc5Order s.bytes))] else s.log }
    (s.speed = .fs → exec .diff10 s = .next ended) ∧ (s.speed = .ls → exec .diff01 s = .next ended)

/-- R95, R96, R103 to R107, R109, R110: the rows SE0, DIFF_01 and DIFF_10, where the window is forwarded, place one data bit
at the place `CUR_N` of the byte, the raw bit itself in DETECT_SYNC and the NRZI bit in RECEIVE, and remember the raw bit. -/
def Obligations.ForwardedWindowPlacesOneBit : Prop :=
  ∀ (i : Instr) (s : State) (raw bit : Bool) (count : BitVec 2), inAttempt s = true →
    forwarded i s = some (raw, count) → dataBit s raw = some bit →
    s.curN.toNat < 7 → s.curVal.toNat < 2 ^ s.curN.toNat →
    exec i s = .next { s with
      se0Count := count, prevRaw := some raw,
      curVal := addBit s.curVal s.curN.toNat bit, curN := BitVec.ofNat 4 (s.curN.toNat + 1) }

/-- R109, R36: the eighth data bit of a byte in RECEIVE appends the byte and starts a new one. -/
def Obligations.EighthBitAppendsByte : Prop :=
  ∀ (i : Instr) (s : State) (raw bit : Bool) (count : BitVec 2), s.st = .receive →
    forwarded i s = some (raw, count) → dataBit s raw = some bit →
    s.curN = 7#4 → s.curVal.toNat < 128 → s.cfg.bufCap ≠ some s.bytes.length →
    exec i s = .next { s with
      se0Count := count, prevRaw := some raw,
      bytes := s.bytes ++ [addBit s.curVal 7 bit], curVal := 0#8, curN := 0#4 }

/-- R38, R109, R151: a byte that completes while the buffer is full faults and leaves all else as it was, in RECEIVE and,
before the SYNC check, in DETECT_SYNC. -/
def Obligations.ByteIntoFullBufferFaults : Prop :=
  ∀ (i : Instr) (s : State) (raw bit : Bool) (count : BitVec 2), inAttempt s = true →
    forwarded i s = some (raw, count) → dataBit s raw = some bit →
    s.curN = 7#4 → s.cfg.bufCap = some s.bytes.length →
    exec i s = .next { s with fault := some .bufferOverflow }

/-- R97, R53, R109, R143: the first byte of an attempt is looked up in the SYNC8 space, and its row runs on the buffer that
holds it; a byte that is no row's drops the attempt and emits nothing. -/
def Obligations.FirstByteRunsSyncRow : Prop :=
  ∀ (i : Instr) (s : State) (raw : Bool) (count : BitVec 2), s.st = .detectSync → s.bytes = [] →
    forwarded i s = some (raw, count) → s.curN = 7#4 → s.curVal.toNat < 128 → s.cfg.bufCap ≠ some 0 →
    s.speed ≠ .none →
    let b := addBit s.curVal 7 raw
    match decode (.sync b) with
    | .ok row => exec i s =
        exec row { s with se0Count := count, prevRaw := some raw, bytes := [b], curVal := 0#8, curN := 0#4 }
    | .error _ => exec i s = .next { s with
        st := .idle, winActive := false, bufActive := false, bytes := [], curVal := 0#8, curN := 0#4, prevRaw := none,
        se0Count := count }

/-- R97, R53, R108: SYNC_FS is accepted at full speed and SYNC_LS at low speed: RECEIVE, the byte accumulator empty, the
buffer kept, the NRZI history kept or, under FIRST_POST_SYNC_BIT, empty; at the other speed the attempt is discarded. -/
def Obligations.SyncRowsAcquireOrDiscard : Prop :=
  ∀ s : State,
    let acquired : State := { s with
      st := .receive, curVal := 0#8, curN := 0#4,
      prevRaw := if s.cfg.nrziSeed = .firstPostSyncBit then none else s.prevRaw }
    let dropped : State := { s with
      st := .idle, winActive := false, bufActive := false, bytes := [], curVal := 0#8, curN := 0#4, prevRaw := none }
    (s.speed = .fs → exec .syncFs s = .next acquired ∧ exec .syncLs s = .next dropped) ∧
    (s.speed = .ls → exec .syncLs s = .next acquired ∧ exec .syncFs s = .next dropped)

/-- R104, R108: in RECEIVE with an empty history, which only FIRST_POST_SYNC_BIT leaves, a window packs nothing and seeds. -/
def Obligations.FirstPostSyncWindowOnlySeeds : Prop :=
  ∀ (i : Instr) (s : State) (raw : Bool) (count : BitVec 2), s.st = .receive → s.prevRaw = none →
    forwarded i s = some (raw, count) →
    exec i s = .next { s with se0Count := count, prevRaw := some raw }

/-- R30: a count that saturates at 2 arms the EOP test exactly when an unbounded count of SE0 windows would. -/
def Obligations.SaturatingCountTestsAsUnbounded : Prop :=
  ∀ n : Nat, (se0Saturate^[n] 0#2).toNat = min n 2 ∧ (se0Armed (se0Saturate^[n] 0#2) = true ↔ 2 ≤ n)

/-- From R106, R107, R109, R110, R39 and the encoding of R64: eight windows that show the NRZI encoding of a byte, from
whichever line state the history holds, append exactly that byte, at both speeds. The LINE2 rows are run alone (log 13), and
nothing is said of the raw bit that is remembered last. -/
def Obligations.NrziByteIsReceived : Prop :=
  ∀ (s : State) (cur : Symbol) (b : Byte), s.st = .receive → s.speed ≠ .none → cur = .j ∨ cur = .k →
    s.prevRaw = some (rawBit (cur.levels (s.speed == .ls))) → s.se0Count = 0#2 → s.curVal = 0#8 → s.curN = 0#4 →
    s.cfg.bufCap ≠ some s.bytes.length →
    ∃ last, runLine ((nrziEncode cur (byteBits b)).map (Symbol.levels (s.speed == .ls))) s =
      .next { s with bytes := s.bytes ++ [b], prevRaw := some last }

/-- R53, R64, R97, R98, R105 to R111, R114: the line symbols of a packet without stuffed bits, K J K J K J K K first and
SE0 SE0 J last, run through the rows of LINE2 from the start of an attempt, emit the classification of the SYNC byte of the
speed and the packet's bytes, and end in IDLE, at both speeds. -/
def Obligations.PacketRoundTrip : Prop :=
  ∀ (s : State) (body : List Byte), s.st = .detectSync → s.speed ≠ .none → s.cfg.nrziSeed = .lastSyncBit →
    s.cfg.bufCap = none → s.bytes = [] → s.curVal = 0#8 → s.curN = 0#4 → s.se0Count = 0#2 → body ≠ [] →
    runLine ((Directive.symbols (.packet body)).map (Symbol.levels (s.speed == .ls))) s =
      .next { s with
        st := .idle, winActive := false, bufActive := false, bytes := [], curVal := 0#8, curN := 0#4, prevRaw := none,
        se0Count := 0#2,
        log := s.log ++ [(s.feedIndex, .packet (classify s.cfg.crc5Order
          ((if s.speed = .fs then 0x2a#8 else 0xd5#8) :: body)))] }

/-! ## The rows of PID8 -/

/-- R54, R98, R114: the record of an EOP is the one that the row of the second byte emits. -/
def Obligations.EndOfPacketRunsPidRow : Prop :=
  ∀ (s : State) (sync pid : Byte) (rest : List Byte), s.bytes = sync :: pid :: rest →
    exec (decodePid pid) s =
      .next { s with log := s.log ++ [(s.feedIndex, .packet (classify s.cfg.crc5Order s.bytes))] }

/-- R116, R56, R130, R135. -/
def Obligations.SofRecordFields : Prop :=
  ∀ (s : State) (b0 b1 b2 b3 : Byte) (rest : List Byte), s.bytes = b0 :: b1 :: b2 :: b3 :: rest →
    let fn := BitVec.ofNat 11 (b3.toNat % 8 * 256 + b2.toNat)
    let rx := BitVec.ofNat 5 (b3.toNat / 8)
    exec .sof s = .next { s with
      log := s.log ++ [(s.feedIndex, .packet (.sof fn rx (decide (crc5 s.cfg.crc5Order fn = rx)) s.bytes))] }

/-- R117 to R120, R57, R130, R135: SETUP, IN and OUT. -/
def Obligations.TokenRecordFields : Prop :=
  ∀ (s : State) (b0 b1 b2 b3 : Byte) (rest : List Byte), s.bytes = b0 :: b1 :: b2 :: b3 :: rest →
    let addr := BitVec.ofNat 7 (b2.toNat % 128)
    let ep := BitVec.ofNat 4 (b3.toNat % 8 * 2 + b2.toNat / 128)
    let ae := BitVec.ofNat 11 (b3.toNat % 8 * 256 + b2.toNat)
    let rx := BitVec.ofNat 5 (b3.toNat / 8)
    let result (k : TokenKind) : State := { s with
      log := s.log ++ [(s.feedIndex, .packet (.token k addr ep rx (decide (crc5 s.cfg.crc5Order ae = rx)) s.bytes))] }
    exec .setup s = .next (result .setup) ∧ exec .inToken s = .next (result .inToken) ∧
      exec .outToken s = .next (result .outToken)

/-- R121 to R123, R58, R40, R138: DATA0 and DATA1; the two trailing bytes are the checksum, low byte first, and everything
between the PID and them is the payload. -/
def Obligations.DataRecordFields : Prop :=
  ∀ (s : State) (b0 b1 lo hi : Byte) (payload : List Byte), s.bytes = b0 :: b1 :: (payload ++ [lo, hi]) →
    let rx := BitVec.ofNat 16 (hi.toNat * 256 + lo.toNat)
    let result (k : DataPid) : State := { s with
      log := s.log ++ [(s.feedIndex, .packet (.data k payload rx (decide (crc16 payload = rx)) s.bytes))] }
    exec .data0 s = .next (result .data0) ∧ exec .data1 s = .next (result .data1)

/-- R124 to R126, R59: ACK, NAK and STALL; bytes after the PID are kept in `raw` alone. -/
def Obligations.HandshakeRecords : Prop :=
  ∀ (s : State) (b0 b1 : Byte) (rest : List Byte), s.bytes = b0 :: b1 :: rest →
    let result (k : HandshakeKind) : State :=
      { s with log := s.log ++ [(s.feedIndex, .packet (.handshake k (b0 :: b1 :: rest)))] }
    exec .ack s = .next (result .ack) ∧ exec .nak s = .next (result .nak) ∧ exec .stall s = .next (result .stall)

/-- R127: every byte that is none of the nine PIDs is the row RAW, which emits the bytes as they are, whatever the length. -/
def Obligations.RawRecord : Prop :=
  (∀ pid : Byte, pid ∉ namedPids → decodePid pid = .raw pid) ∧
  ∀ (s : State) (pid : Byte),
    exec (.raw pid) s = .next { s with log := s.log ++ [(s.feedIndex, .packet (.raw s.bytes))] }

/-- R115, R145: with fewer than four bytes SOF, SETUP, IN, OUT, DATA0 and DATA1 emit the bytes as Raw. -/
def Obligations.ShortPacketIsRaw : Prop :=
  ∀ (s : State) (i : Instr), i ∈ [.sof, .setup, .inToken, .outToken, .data0, .data1] → s.bytes.length < 4 →
    exec i s = .next { s with log := s.log ++ [(s.feedIndex, .packet (.raw s.bytes))] }

/-- R129. -/
def Obligations.EveryRecordKeepsRawBytes : Prop :=
  ∀ (order : Crc5Order) (b : List Byte), (classify order b).rawBytes = b

/-- R141, R144, R145: which records show a MalformedPacket, and which a ChecksumMismatch. -/
def Obligations.RecordShowsItsCause : Prop :=
  ∀ (order : Crc5Order) (sync pid : Byte) (rest : List Byte),
    let b := sync :: pid :: rest
    ((classify order b).cause = some .malformedPacket ↔
      pid ∈ [0xa5#8, 0x2d#8, 0x69#8, 0xe1#8, 0xc3#8, 0x4b#8] ∧ b.length < 4) ∧
    ((classify order b).cause = some .checksumMismatch ↔
      (∃ fn rx, classify order b = .sof fn rx false b) ∨
      (∃ k a e rx, classify order b = .token k a e rx false b) ∨
      (∃ k pl rx, classify order b = .data k pl rx false b))

/-! ## RESET -/

/-- R162, R33: the hint and the speed it gives, and every register at its reset value; WIN_END has none, so nothing is said
of it. The parameters stay, nothing is emitted; that pending inputs and earlier records stay is the model's (log 4, 5). -/
def Obligations.ResetWritesEveryRegister : Prop :=
  ∀ s : State,
    exec (.reset 3#2) s = .refused .reservedHint ∧
    ∀ h : BitVec 2, h ≠ 3#2 →
      ∃ (hint : Hint) (latch : Binary64) (any : Time), hint.code = h ∧
        exec (.reset h) s = .next { s with
          hint := hint,
          speed := if h = 1#2 then .ls else if h = 2#2 then .fs else .none,
          st := .unknown, prevLv := none, lastT := none, winActive := false, sumDp := 0, sumDm := 0, winEnd := any,
          bufActive := false, bytes := [], curVal := 0#8, curN := 0#4, prevRaw := none, se0Count := 0#2, fault := none,
          sampleT := latch }

/-- R49: the codes of the hint, and the refusal of the reserved one. -/
def Obligations.ReservedHintIsRefused : Prop :=
  Hint.auto.code = 0#2 ∧ Hint.forceLs.code = 1#2 ∧ Hint.forceFs.code = 2#2 ∧
  ∀ s : State, exec (.reset 3#2) s = .refused .reservedHint ∧
    (∀ (h : BitVec 2) (r : Refusal), exec (.reset h) s = .refused r → h = 3#2) ∧
    (∀ (h : BitVec 2) (t : State), exec (.reset h) s = .next t → t.hint.code = h)

/-! ## The whole machine -/

/-- The invariant holds after reset. -/
def Obligations.InvAtReset : Prop := State.reset.Inv

/-- R18, R25 to R30, R45, R74, R98: every step keeps the invariant. -/
def Obligations.StepKeepsInv : Prop :=
  ∀ s t : State, s.Inv → step s = .next t → t.Inv

/-- From a state of the invariant a step answers a next state, unless a reset with the reserved hint is next. -/
def Obligations.StepAnswersUnlessReservedHint : Prop :=
  ∀ s : State, s.Inv →
    (∃ t, step s = .next t) ∨ (∃ rest, s.inputs = .reset 3#2 :: rest ∧ step s = .refused .reservedHint)

/-- R19: a speed that is known is not written again before a reset, and from NONE only a sample in UNKNOWN writes it. -/
def Obligations.SpeedIsFixedWithinRun : Prop :=
  ∀ s t : State, step s = .next t → (∀ h rest, s.inputs ≠ .reset h :: rest) →
    t.speed = s.speed ∨ (s.speed = .none ∧ s.st = .unknown)

/-- R21, R5, R162: only a reset writes the hint, and nothing writes the parameters. -/
def Obligations.OnlyResetWritesHint : Prop :=
  ∀ s t : State, step s = .next t →
    t.cfg = s.cfg ∧ (t.hint = s.hint ∨ ∃ h rest, s.inputs = .reset h :: rest ∧ t.hint.code = h)

/-- R21: no FEED reads the hint. -/
def Obligations.FeedNeverReadsHint : Prop :=
  ∀ (s t : State) (h : Hint) (i v m : Binary64), exec (.feed i v m) s = .next t →
    exec (.feed i v m) { s with hint := h } = .next { t with hint := h }

/-- R24, R99, R163: outside an attempt no FEED reads the window's registers or the SE0 count: whatever they hold, the outcome
is the same, and they are left as they were or written without being read. -/
def Obligations.WindowRegistersUnreadOutsideAttempt : Prop :=
  ∀ (s t : State) (i v m : Binary64) (e : Time) (p d : Int) (c : BitVec 2), s.st = .unknown ∨ s.st = .idle →
    exec (.feed i v m) s = .next t →
    let r := exec (.feed i v m) { s with winEnd := e, sumDp := p, sumDm := d, se0Count := c }
    (t.st = .detectSync ∧ r = .next t) ∨
    (t.st ≠ .detectSync ∧ r = .next { t with winEnd := e, sumDp := p, sumDm := d, se0Count := c })

/-- R150, R44, R45: a step puts at most one record on the outputs, after those already there and with the index of its FEED,
and none when it faults. -/
def Obligations.AtMostOneRecordPerFeed : Prop :=
  ∀ s t : State, step s = .next t →
    ∃ recs, t.log = s.log ++ recs ∧ recs.length ≤ 1 ∧ (∀ r ∈ recs, r.1 = s.feedIndex) ∧
      (t.fault ≠ none → recs = [])

/-- R98, R142, R174: when a sample makes a packet record, and when a diagnostic. -/
def Obligations.RecordsExactlyOnEopOrSe1 : Prop :=
  ∀ (s u : State) (t vdp vdm : Binary64), exec (.feed t vdp vdm) s = .next u →
    let closes := accepts t vdp vdm s = true ∧ inAttempt s = true ∧ s.winEnd.reached t = true
    ((∃ p, u.log = s.log ++ [(s.feedIndex, .packet p)]) ↔
      closes ∧ 2 ≤ s.se0Count.toNat ∧ 1 < s.bytes.length ∧
        ((s.speed = .fs ∧ resolve s = ⟨true, false⟩) ∨ (s.speed = .ls ∧ resolve s = ⟨false, true⟩))) ∧
    ((∃ x, u.log = s.log ++ [(s.feedIndex, .diag .se1Detected x)]) ↔ closes ∧ resolve s = ⟨true, true⟩)

/-- From R150, R148, R149 and R155: the packet and the diagnostic strobe are never both active, neither is with the fault indication, and that one stays
set until a reset. That the strobes are functions of the states before and after a step is log 21. -/
def Obligations.StrobesOfAStep : Prop :=
  ∀ s t : State, step s = .next t →
    ¬ (packetStrobe s t = true ∧ diagStrobe s t = true) ∧
    (faultIndication t = true → packetStrobe s t = false ∧ diagStrobe s t = false) ∧
    (faultIndication s = true → faultIndication t = true ∨ ∃ h rest, s.inputs = .reset h :: rest)

/-- R70, R100, R101: the moves of `S.ST` that a step without a reset can make. -/
def Obligations.StateMovesOnlyAsTabled : Prop :=
  ∀ s t : State, step s = .next t → (∀ h rest, s.inputs ≠ .reset h :: rest) → t.st ≠ s.st →
    (s.st, t.st) ∈ [(St.unknown, St.idle), (St.idle, St.detectSync), (St.detectSync, St.receive),
      (St.detectSync, St.idle), (St.receive, St.idle)]

/-- R36: a step leaves the buffer, appends one byte, or empties it at the start or the end of an attempt or by a reset. -/
def Obligations.BufferOnlyGrowsOrEmpties : Prop :=
  ∀ s t : State, step s = .next t →
    t.bytes = s.bytes ∨ (∃ b, t.bytes = s.bytes ++ [b]) ∨
    (t.bytes = [] ∧ (t.st = .idle ∨ (s.st = .idle ∧ t.st = .detectSync) ∨ ∃ h rest, s.inputs = .reset h :: rest))

/-! ## Windows and time -/

/-- R76: a lane's sum depends on that lane alone; K and J tie to SE0; a window whose two sums are positive holds an SE1
sample, which may be in the minority; and a window with SE1 samples may resolve to J, to K or to SE0. -/
def Obligations.VoteOfAWindow : Prop :=
  let k : Levels := ⟨false, true⟩
  let j : Levels := ⟨true, false⟩
  let se0 : Levels := ⟨false, false⟩
  let se1 : Levels := ⟨true, true⟩
  let pair (a : List Levels) : Levels := ⟨vote (windowSums a).1, vote (windowSums a).2⟩
  (∀ a b : List Levels, a.map Levels.dp = b.map Levels.dp → (windowSums a).1 = (windowSums b).1) ∧
  (∀ a b : List Levels, a.map Levels.dm = b.map Levels.dm → (windowSums a).2 = (windowSums b).2) ∧
  windowSums [k, j] = (0, 0) ∧ pair [k, j] = se0 ∧
  (∀ a : List Levels, pair a = se1 → se1 ∈ a) ∧
  windowSums [k, j, j, se1, se1] = (3, 1) ∧ pair [k, j, j, se1, se1] = se1 ∧
  pair [se1, j] = j ∧ pair [se1, k] = k ∧ pair [se1, se0] = se0

/-- R73, R75: unbounded sums of an opened window are the sums of the samples it received, and a lane resolves to 1 iff more
of its samples are HIGH than LOW. -/
def Obligations.WindowVotesByMajority : Prop :=
  ∀ (s : State) (e : Time) (samples : List Levels), s.cfg.accBits = none →
    samples.foldlM (fun u lv => accumulate lv u) (openWindow e s) =
      .ok { openWindow e s with sumDp := (windowSums samples).1, sumDm := (windowSums samples).2 } ∧
    (vote (windowSums samples).1 = true ↔
      (samples.filter fun lv => !lv.dp).length < (samples.filter fun lv => lv.dp).length) ∧
    (vote (windowSums samples).2 = true ↔
      (samples.filter fun lv => !lv.dm).length < (samples.filter fun lv => lv.dm).length)

/-- R82: `E_1 = fadd(t, P)` and `E_(k+1) = fadd(E_k, P)` in binary64; in exact arithmetic `E_k = t + k P`, in a unit of which
`exactScale * 2^1074` make a second. -/
def Obligations.WindowSchedule : Prop :=
  (∀ (spd : Speed) (t : Binary64) (k : Nat) (e : Binary64), spd ≠ .none →
    windowEnd .binary64 spd t 0 = .ok (.bin t) ∧
    (windowEnd .binary64 spd t k = .ok (.bin e) →
      windowEnd .binary64 spd t (k + 1) = .ok (.bin (fadd e (if spd = .fs then periodFs else periodLs))))) ∧
  (∀ (t : Binary64) (k : Nat),
    windowEnd .exact .fs t k = .ok (.exact (scaled t * exactScale + k * exactPeriodFs)) ∧
    windowEnd .exact .ls t k = .ok (.exact (scaled t * exactScale + k * exactPeriodLs))) ∧
  12000000 * exactPeriodFs = exactScale * 2 ^ 1074 ∧ 1500000 * exactPeriodLs = exactScale * 2 ^ 1074

/-- R5, vector S-13: the two periods as binary64 words. -/
def Obligations.PeriodWords : Prop :=
  periodFs = 0x3e765e9f80f29212#64 ∧ periodLs = 0x3ea65e9f80f29212#64

/-- R8: the sum of two finite values, where it is finite, is a nearest finite value to the exact sum, and the one with an
even significand where two are equally near. Values are in units of 2^-1074 (log 10). -/
def Obligations.FaddRoundsToNearestEven : Prop :=
  ∀ a b c : Binary64, finite a = true → finite b = true → finite (fadd a b) = true → finite c = true →
    let exactSum := scaled a + scaled b
    (scaled (fadd a b) - exactSum).natAbs ≤ (scaled c - exactSum).natAbs ∧
    ((scaled (fadd a b) - exactSum).natAbs = (scaled c - exactSum).natAbs → scaled c ≠ scaled (fadd a b) →
      (fadd a b).getLsbD 0 = false)

/-! ## Checksums -/

/-- R133, R140: the printed tables are the bit-serial functions, in both variants. -/
def Obligations.Crc5TablesAreBitSerial : Prop :=
  ∀ (order : Crc5Order) (n : BitVec 11), crc5Table order n = crc5 order n

/-- R137: the printed table is the inner loop on each byte value, the byte step by table gives the bit-serial CRC16, and the
check value over "123456789". -/
def Obligations.Crc16TableIsBitSerial : Prop :=
  (∀ i : Byte, t16 i = crc16Loop (i.setWidth 16)) ∧ (∀ p : List Byte, crc16Table p = crc16 p) ∧
  crc16 [0x31#8, 0x32#8, 0x33#8, 0x34#8, 0x35#8, 0x36#8, 0x37#8, 0x38#8, 0x39#8] = 0xb4c8#16

/-- R139: the empty payload, and a flipped bit of the trailing bytes of a DATA packet whose checksum matched. -/
def Obligations.FlippedCrc16BitFailsCheck : Prop :=
  crc16 [] = 0x0000#16 ∧
  ∀ (k : DataPid) (b0 b1 lo hi : Byte) (payload : List Byte) (j : Nat), j < 8 →
    (∃ rx, dataRec k (b0 :: b1 :: (payload ++ [lo, hi])) =
      some (.data k payload rx true (b0 :: b1 :: (payload ++ [lo, hi])))) →
    (∃ rx, dataRec k (b0 :: b1 :: (payload ++ [lo ^^^ 1#8 <<< j, hi])) =
      some (.data k payload rx false (b0 :: b1 :: (payload ++ [lo ^^^ 1#8 <<< j, hi])))) ∧
    (∃ rx, dataRec k (b0 :: b1 :: (payload ++ [lo, hi ^^^ 1#8 <<< j])) =
      some (.data k payload rx false (b0 :: b1 :: (payload ++ [lo, hi ^^^ 1#8 <<< j]))))

end
end

