-- ==== Sys2Proof/Laws/State.lean ====
section
/-! SUPPORT. One lemma per field per named update of the state. -/

namespace Sys2Proof.Machine

@[simp] theorem emit_st (o : Output) (s : State) : (emit o s).st = s.st := rfl
@[simp] theorem emit_speed (o : Output) (s : State) : (emit o s).speed = s.speed := rfl
@[simp] theorem emit_hint (o : Output) (s : State) : (emit o s).hint = s.hint := rfl
@[simp] theorem emit_prevLv (o : Output) (s : State) : (emit o s).prevLv = s.prevLv := rfl
@[simp] theorem emit_lastT (o : Output) (s : State) : (emit o s).lastT = s.lastT := rfl
@[simp] theorem emit_winActive (o : Output) (s : State) : (emit o s).winActive = s.winActive := rfl
@[simp] theorem emit_sumDp (o : Output) (s : State) : (emit o s).sumDp = s.sumDp := rfl
@[simp] theorem emit_sumDm (o : Output) (s : State) : (emit o s).sumDm = s.sumDm := rfl
@[simp] theorem emit_winEnd (o : Output) (s : State) : (emit o s).winEnd = s.winEnd := rfl
@[simp] theorem emit_bufActive (o : Output) (s : State) : (emit o s).bufActive = s.bufActive := rfl
@[simp] theorem emit_bytes (o : Output) (s : State) : (emit o s).bytes = s.bytes := rfl
@[simp] theorem emit_curVal (o : Output) (s : State) : (emit o s).curVal = s.curVal := rfl
@[simp] theorem emit_curN (o : Output) (s : State) : (emit o s).curN = s.curN := rfl
@[simp] theorem emit_prevRaw (o : Output) (s : State) : (emit o s).prevRaw = s.prevRaw := rfl
@[simp] theorem emit_se0Count (o : Output) (s : State) : (emit o s).se0Count = s.se0Count := rfl
@[simp] theorem emit_fault (o : Output) (s : State) : (emit o s).fault = s.fault := rfl
@[simp] theorem emit_cfg (o : Output) (s : State) : (emit o s).cfg = s.cfg := rfl
@[simp] theorem emit_inputs (o : Output) (s : State) : (emit o s).inputs = s.inputs := rfl
@[simp] theorem emit_log (o : Output) (s : State) : (emit o s).log = s.log ++ [(s.feedIndex, o)] := rfl
@[simp] theorem emit_feedIndex (o : Output) (s : State) : (emit o s).feedIndex = s.feedIndex := rfl
@[simp] theorem emit_sampleT (o : Output) (s : State) : (emit o s).sampleT = s.sampleT := rfl

@[simp] theorem raiseFault_st (c : FaultCode) (s : State) : (raiseFault c s).st = s.st := rfl
@[simp] theorem raiseFault_speed (c : FaultCode) (s : State) : (raiseFault c s).speed = s.speed := rfl
@[simp] theorem raiseFault_hint (c : FaultCode) (s : State) : (raiseFault c s).hint = s.hint := rfl
@[simp] theorem raiseFault_prevLv (c : FaultCode) (s : State) : (raiseFault c s).prevLv = s.prevLv := rfl
@[simp] theorem raiseFault_lastT (c : FaultCode) (s : State) : (raiseFault c s).lastT = s.lastT := rfl
@[simp] theorem raiseFault_winActive (c : FaultCode) (s : State) : (raiseFault c s).winActive = s.winActive := rfl
@[simp] theorem raiseFault_sumDp (c : FaultCode) (s : State) : (raiseFault c s).sumDp = s.sumDp := rfl
@[simp] theorem raiseFault_sumDm (c : FaultCode) (s : State) : (raiseFault c s).sumDm = s.sumDm := rfl
@[simp] theorem raiseFault_winEnd (c : FaultCode) (s : State) : (raiseFault c s).winEnd = s.winEnd := rfl
@[simp] theorem raiseFault_bufActive (c : FaultCode) (s : State) : (raiseFault c s).bufActive = s.bufActive := rfl
@[simp] theorem raiseFault_bytes (c : FaultCode) (s : State) : (raiseFault c s).bytes = s.bytes := rfl
@[simp] theorem raiseFault_curVal (c : FaultCode) (s : State) : (raiseFault c s).curVal = s.curVal := rfl
@[simp] theorem raiseFault_curN (c : FaultCode) (s : State) : (raiseFault c s).curN = s.curN := rfl
@[simp] theorem raiseFault_prevRaw (c : FaultCode) (s : State) : (raiseFault c s).prevRaw = s.prevRaw := rfl
@[simp] theorem raiseFault_se0Count (c : FaultCode) (s : State) : (raiseFault c s).se0Count = s.se0Count := rfl
@[simp] theorem raiseFault_fault (c : FaultCode) (s : State) : (raiseFault c s).fault = some c := rfl
@[simp] theorem raiseFault_cfg (c : FaultCode) (s : State) : (raiseFault c s).cfg = s.cfg := rfl
@[simp] theorem raiseFault_inputs (c : FaultCode) (s : State) : (raiseFault c s).inputs = s.inputs := rfl
@[simp] theorem raiseFault_log (c : FaultCode) (s : State) : (raiseFault c s).log = s.log := rfl
@[simp] theorem raiseFault_feedIndex (c : FaultCode) (s : State) : (raiseFault c s).feedIndex = s.feedIndex := rfl
@[simp] theorem raiseFault_sampleT (c : FaultCode) (s : State) : (raiseFault c s).sampleT = s.sampleT := rfl

@[simp] theorem openWindow_st (e : Time) (s : State) : (openWindow e s).st = s.st := rfl
@[simp] theorem openWindow_speed (e : Time) (s : State) : (openWindow e s).speed = s.speed := rfl
@[simp] theorem openWindow_hint (e : Time) (s : State) : (openWindow e s).hint = s.hint := rfl
@[simp] theorem openWindow_prevLv (e : Time) (s : State) : (openWindow e s).prevLv = s.prevLv := rfl
@[simp] theorem openWindow_lastT (e : Time) (s : State) : (openWindow e s).lastT = s.lastT := rfl
@[simp] theorem openWindow_winActive (e : Time) (s : State) : (openWindow e s).winActive = true := rfl
@[simp] theorem openWindow_sumDp (e : Time) (s : State) : (openWindow e s).sumDp = 0 := rfl
@[simp] theorem openWindow_sumDm (e : Time) (s : State) : (openWindow e s).sumDm = 0 := rfl
@[simp] theorem openWindow_winEnd (e : Time) (s : State) : (openWindow e s).winEnd = e := rfl
@[simp] theorem openWindow_bufActive (e : Time) (s : State) : (openWindow e s).bufActive = s.bufActive := rfl
@[simp] theorem openWindow_bytes (e : Time) (s : State) : (openWindow e s).bytes = s.bytes := rfl
@[simp] theorem openWindow_curVal (e : Time) (s : State) : (openWindow e s).curVal = s.curVal := rfl
@[simp] theorem openWindow_curN (e : Time) (s : State) : (openWindow e s).curN = s.curN := rfl
@[simp] theorem openWindow_prevRaw (e : Time) (s : State) : (openWindow e s).prevRaw = s.prevRaw := rfl
@[simp] theorem openWindow_se0Count (e : Time) (s : State) : (openWindow e s).se0Count = s.se0Count := rfl
@[simp] theorem openWindow_fault (e : Time) (s : State) : (openWindow e s).fault = s.fault := rfl
@[simp] theorem openWindow_cfg (e : Time) (s : State) : (openWindow e s).cfg = s.cfg := rfl
@[simp] theorem openWindow_inputs (e : Time) (s : State) : (openWindow e s).inputs = s.inputs := rfl
@[simp] theorem openWindow_log (e : Time) (s : State) : (openWindow e s).log = s.log := rfl
@[simp] theorem openWindow_feedIndex (e : Time) (s : State) : (openWindow e s).feedIndex = s.feedIndex := rfl
@[simp] theorem openWindow_sampleT (e : Time) (s : State) : (openWindow e s).sampleT = s.sampleT := rfl

@[simp] theorem discard_st (s : State) : (discard s).st = .idle := rfl
@[simp] theorem discard_speed (s : State) : (discard s).speed = s.speed := rfl
@[simp] theorem discard_hint (s : State) : (discard s).hint = s.hint := rfl
@[simp] theorem discard_prevLv (s : State) : (discard s).prevLv = s.prevLv := rfl
@[simp] theorem discard_lastT (s : State) : (discard s).lastT = s.lastT := rfl
@[simp] theorem discard_winActive (s : State) : (discard s).winActive = false := rfl
@[simp] theorem discard_sumDp (s : State) : (discard s).sumDp = s.sumDp := rfl
@[simp] theorem discard_sumDm (s : State) : (discard s).sumDm = s.sumDm := rfl
@[simp] theorem discard_winEnd (s : State) : (discard s).winEnd = s.winEnd := rfl
@[simp] theorem discard_bufActive (s : State) : (discard s).bufActive = false := rfl
@[simp] theorem discard_bytes (s : State) : (discard s).bytes = [] := rfl
@[simp] theorem discard_curVal (s : State) : (discard s).curVal = 0#8 := rfl
@[simp] theorem discard_curN (s : State) : (discard s).curN = 0#4 := rfl
@[simp] theorem discard_prevRaw (s : State) : (discard s).prevRaw = none := rfl
@[simp] theorem discard_se0Count (s : State) : (discard s).se0Count = s.se0Count := rfl
@[simp] theorem discard_fault (s : State) : (discard s).fault = s.fault := rfl
@[simp] theorem discard_cfg (s : State) : (discard s).cfg = s.cfg := rfl
@[simp] theorem discard_inputs (s : State) : (discard s).inputs = s.inputs := rfl
@[simp] theorem discard_log (s : State) : (discard s).log = s.log := rfl
@[simp] theorem discard_feedIndex (s : State) : (discard s).feedIndex = s.feedIndex := rfl
@[simp] theorem discard_sampleT (s : State) : (discard s).sampleT = s.sampleT := rfl

@[simp] theorem feedCommit_st (t : Binary64) (lv : Levels) (s : State) : (feedCommit t lv s).st = s.st := rfl
@[simp] theorem feedCommit_speed (t : Binary64) (lv : Levels) (s : State) : (feedCommit t lv s).speed = s.speed := rfl
@[simp] theorem feedCommit_hint (t : Binary64) (lv : Levels) (s : State) : (feedCommit t lv s).hint = s.hint := rfl
@[simp] theorem feedCommit_prevLv (t : Binary64) (lv : Levels) (s : State) : (feedCommit t lv s).prevLv = some lv := rfl
@[simp] theorem feedCommit_lastT (t : Binary64) (lv : Levels) (s : State) : (feedCommit t lv s).lastT = some t := rfl
@[simp] theorem feedCommit_winActive (t : Binary64) (lv : Levels) (s : State) : (feedCommit t lv s).winActive = s.winActive := rfl
@[simp] theorem feedCommit_sumDp (t : Binary64) (lv : Levels) (s : State) : (feedCommit t lv s).sumDp = s.sumDp := rfl
@[simp] theorem feedCommit_sumDm (t : Binary64) (lv : Levels) (s : State) : (feedCommit t lv s).sumDm = s.sumDm := rfl
@[simp] theorem feedCommit_winEnd (t : Binary64) (lv : Levels) (s : State) : (feedCommit t lv s).winEnd = s.winEnd := rfl
@[simp] theorem feedCommit_bufActive (t : Binary64) (lv : Levels) (s : State) : (feedCommit t lv s).bufActive = s.bufActive := rfl
@[simp] theorem feedCommit_bytes (t : Binary64) (lv : Levels) (s : State) : (feedCommit t lv s).bytes = s.bytes := rfl
@[simp] theorem feedCommit_curVal (t : Binary64) (lv : Levels) (s : State) : (feedCommit t lv s).curVal = s.curVal := rfl
@[simp] theorem feedCommit_curN (t : Binary64) (lv : Levels) (s : State) : (feedCommit t lv s).curN = s.curN := rfl
@[simp] theorem feedCommit_prevRaw (t : Binary64) (lv : Levels) (s : State) : (feedCommit t lv s).prevRaw = s.prevRaw := rfl
@[simp] theorem feedCommit_se0Count (t : Binary64) (lv : Levels) (s : State) : (feedCommit t lv s).se0Count = s.se0Count := rfl
@[simp] theorem feedCommit_fault (t : Binary64) (lv : Levels) (s : State) : (feedCommit t lv s).fault = s.fault := rfl
@[simp] theorem feedCommit_cfg (t : Binary64) (lv : Levels) (s : State) : (feedCommit t lv s).cfg = s.cfg := rfl
@[simp] theorem feedCommit_inputs (t : Binary64) (lv : Levels) (s : State) : (feedCommit t lv s).inputs = s.inputs := rfl
@[simp] theorem feedCommit_log (t : Binary64) (lv : Levels) (s : State) : (feedCommit t lv s).log = s.log := rfl
@[simp] theorem feedCommit_feedIndex (t : Binary64) (lv : Levels) (s : State) : (feedCommit t lv s).feedIndex = s.feedIndex := rfl
@[simp] theorem feedCommit_sampleT (t : Binary64) (lv : Levels) (s : State) : (feedCommit t lv s).sampleT = s.sampleT := rfl

@[simp] theorem resetState_st (h : Hint) (s : State) : (resetState h s).st = .unknown := rfl
@[simp] theorem resetState_speed (h : Hint) (s : State) : (resetState h s).speed = h.speed := rfl
@[simp] theorem resetState_hint (h : Hint) (s : State) : (resetState h s).hint = h := rfl
@[simp] theorem resetState_prevLv (h : Hint) (s : State) : (resetState h s).prevLv = none := rfl
@[simp] theorem resetState_lastT (h : Hint) (s : State) : (resetState h s).lastT = none := rfl
@[simp] theorem resetState_winActive (h : Hint) (s : State) : (resetState h s).winActive = false := rfl
@[simp] theorem resetState_sumDp (h : Hint) (s : State) : (resetState h s).sumDp = 0 := rfl
@[simp] theorem resetState_sumDm (h : Hint) (s : State) : (resetState h s).sumDm = 0 := rfl
@[simp] theorem resetState_winEnd (h : Hint) (s : State) : (resetState h s).winEnd = .bin 0#64 := rfl
@[simp] theorem resetState_bufActive (h : Hint) (s : State) : (resetState h s).bufActive = false := rfl
@[simp] theorem resetState_bytes (h : Hint) (s : State) : (resetState h s).bytes = [] := rfl
@[simp] theorem resetState_curVal (h : Hint) (s : State) : (resetState h s).curVal = 0#8 := rfl
@[simp] theorem resetState_curN (h : Hint) (s : State) : (resetState h s).curN = 0#4 := rfl
@[simp] theorem resetState_prevRaw (h : Hint) (s : State) : (resetState h s).prevRaw = none := rfl
@[simp] theorem resetState_se0Count (h : Hint) (s : State) : (resetState h s).se0Count = 0#2 := rfl
@[simp] theorem resetState_fault (h : Hint) (s : State) : (resetState h s).fault = none := rfl
@[simp] theorem resetState_cfg (h : Hint) (s : State) : (resetState h s).cfg = s.cfg := rfl
@[simp] theorem resetState_inputs (h : Hint) (s : State) : (resetState h s).inputs = s.inputs := rfl
@[simp] theorem resetState_log (h : Hint) (s : State) : (resetState h s).log = s.log := rfl
@[simp] theorem resetState_feedIndex (h : Hint) (s : State) : (resetState h s).feedIndex = s.feedIndex := rfl
@[simp] theorem resetState_sampleT (h : Hint) (s : State) : (resetState h s).sampleT = 0#64 := rfl

@[simp] theorem present_st (i : Input) (s : State) : (present i s).st = s.st := rfl
@[simp] theorem present_speed (i : Input) (s : State) : (present i s).speed = s.speed := rfl
@[simp] theorem present_hint (i : Input) (s : State) : (present i s).hint = s.hint := rfl
@[simp] theorem present_prevLv (i : Input) (s : State) : (present i s).prevLv = s.prevLv := rfl
@[simp] theorem present_lastT (i : Input) (s : State) : (present i s).lastT = s.lastT := rfl
@[simp] theorem present_winActive (i : Input) (s : State) : (present i s).winActive = s.winActive := rfl
@[simp] theorem present_sumDp (i : Input) (s : State) : (present i s).sumDp = s.sumDp := rfl
@[simp] theorem present_sumDm (i : Input) (s : State) : (present i s).sumDm = s.sumDm := rfl
@[simp] theorem present_winEnd (i : Input) (s : State) : (present i s).winEnd = s.winEnd := rfl
@[simp] theorem present_bufActive (i : Input) (s : State) : (present i s).bufActive = s.bufActive := rfl
@[simp] theorem present_bytes (i : Input) (s : State) : (present i s).bytes = s.bytes := rfl
@[simp] theorem present_curVal (i : Input) (s : State) : (present i s).curVal = s.curVal := rfl
@[simp] theorem present_curN (i : Input) (s : State) : (present i s).curN = s.curN := rfl
@[simp] theorem present_prevRaw (i : Input) (s : State) : (present i s).prevRaw = s.prevRaw := rfl
@[simp] theorem present_se0Count (i : Input) (s : State) : (present i s).se0Count = s.se0Count := rfl
@[simp] theorem present_fault (i : Input) (s : State) : (present i s).fault = s.fault := rfl
@[simp] theorem present_cfg (i : Input) (s : State) : (present i s).cfg = s.cfg := rfl
@[simp] theorem present_inputs (i : Input) (s : State) : (present i s).inputs = i :: s.inputs := rfl
@[simp] theorem present_log (i : Input) (s : State) : (present i s).log = s.log := rfl
@[simp] theorem present_feedIndex (i : Input) (s : State) : (present i s).feedIndex = s.feedIndex := rfl
@[simp] theorem present_sampleT (i : Input) (s : State) : (present i s).sampleT = s.sampleT := rfl

end Sys2Proof.Machine
end

