-- ==== Sys2Proof/Laws/Ops.lean ====
section
/-! SUPPORT. What each shared operation of a FEED can do: one lemma per operation, for later proofs to cite. -/

namespace Sys2Proof.Machine

/-- ACCUMULATE either adds one sample to each sum or raises ACC_OVERFLOW, and does nothing else. -/
theorem accumulate_cases (lv : Levels) (s : State) :
    (accOverflows s.cfg.accBits (s.sumDp + weight lv.dp) = false ∧
      accOverflows s.cfg.accBits (s.sumDm + weight lv.dm) = false ∧
      accumulate lv s = .ok { s with sumDp := s.sumDp + weight lv.dp, sumDm := s.sumDm + weight lv.dm }) ∨
    ((accOverflows s.cfg.accBits (s.sumDp + weight lv.dp) = true ∨
        accOverflows s.cfg.accBits (s.sumDm + weight lv.dm) = true) ∧
      accumulate lv s = .error (.raise .accOverflow)) := by
  unfold accumulate
  cases h : accOverflows s.cfg.accBits (s.sumDp + weight lv.dp) <;>
    cases h' : accOverflows s.cfg.accBits (s.sumDm + weight lv.dm) <;> simp [h, h']

theorem accumulate_ok {lv : Levels} {s t : State} (h : accumulate lv s = .ok t) :
    accOverflows s.cfg.accBits (s.sumDp + weight lv.dp) = false ∧
      accOverflows s.cfg.accBits (s.sumDm + weight lv.dm) = false ∧
      t = { s with sumDp := s.sumDp + weight lv.dp, sumDm := s.sumDm + weight lv.dm } := by
  rcases accumulate_cases lv s with ⟨h1, h2, h3⟩ | ⟨-, h3⟩
  · exact ⟨h1, h2, by simpa [h3] using h.symm⟩
  · simp [h3] at h

/-- ACCUMULATE never stops with a fault of the model. -/
theorem accumulate_ne_model (lv : Levels) (s : State) (f : Fault) : accumulate lv s ≠ .error (.model f) := by
  rcases accumulate_cases lv s with ⟨-, -, h⟩ | ⟨-, h⟩ <;> simp [h]

/-- The SYNC pattern is defined at both speeds. -/
theorem syncPattern_ok {spd : Speed} (h : spd ≠ .none) : ∃ b, syncPattern spd = .ok b := by
  cases spd <;> simp_all [syncPattern]

/-- SYNC_CHECK acquires or discards. -/
theorem syncCheck_cases (b : Byte) (s : State) :
    (s.speed = .none ∧ syncCheck b s = .error (.model .noSpeed)) ∨
    (syncPattern s.speed = .ok b ∧
      syncCheck b s = .ok ({ s with
        st := .receive, curVal := 0#8, curN := 0#4,
        prevRaw := if s.cfg.nrziSeed = .firstPostSyncBit then none else s.prevRaw }, true)) ∨
    (s.speed ≠ .none ∧ syncPattern s.speed ≠ .ok b ∧ syncCheck b s = .ok (discard s, false)) := by
  unfold syncCheck
  cases hs : s.speed with
  | none => left; exact ⟨rfl, rfl⟩
  | ls =>
    right
    by_cases hb : b = 0xd5#8
    · left; subst hb; exact ⟨rfl, rfl⟩
    · right
      refine ⟨by simp, by simpa [syncPattern] using fun h => hb h.symm, ?_⟩
      show (if b = 0xd5#8 then _ else _) = _
      rw [if_neg hb]
  | fs =>
    right
    by_cases hb : b = 0x2a#8
    · left; subst hb; exact ⟨rfl, rfl⟩
    · right
      refine ⟨by simp, by simpa [syncPattern] using fun h => hb h.symm, ?_⟩
      show (if b = 0x2a#8 then _ else _) = _
      rw [if_neg hb]

/-- PACK shifts a bit in; the eighth latches a byte, and in DETECT_SYNC runs SYNC_CHECK. -/
theorem pack_cases (bit : Bool) (s : State) :
    (s.curN + 1#4 ≠ 8#4 ∧
      pack bit s = .ok ({ s with curVal := placeBit s.curVal s.curN bit, curN := s.curN + 1#4 }, true)) ∨
    (s.curN + 1#4 = 8#4 ∧ bufFull s.cfg.bufCap s.bytes = true ∧ pack bit s = .error (.raise .bufferOverflow)) ∨
    (s.curN + 1#4 = 8#4 ∧ bufFull s.cfg.bufCap s.bytes = false ∧ s.st ≠ .detectSync ∧
      pack bit s = .ok ({ s with
        bytes := bufAppend s.bytes (placeBit s.curVal s.curN bit), curVal := 0#8, curN := 0#4 }, true)) ∨
    (s.curN + 1#4 = 8#4 ∧ bufFull s.cfg.bufCap s.bytes = false ∧ s.st = .detectSync ∧
      pack bit s = syncCheck (firstAfterAppend s.bytes (placeBit s.curVal s.curN bit))
        { s with bytes := bufAppend s.bytes (placeBit s.curVal s.curN bit), curVal := 0#8, curN := 0#4 }) := by
  unfold pack
  by_cases hn : s.curN + 1#4 = 8#4
  · by_cases hst : s.st = .detectSync <;> cases hb : bufFull s.cfg.bufCap s.bytes <;> simp [hn, hst]
  · left; simp [hn]

/-- FORWARD packs one data bit, or only seeds the NRZI history. -/
theorem forward_cases (lv : Levels) (s : State) :
    (s.st = .detectSync ∧ forward lv s = pack (rawBit lv) { s with prevRaw := some (rawBit lv) }) ∨
    (s.st ≠ .detectSync ∧ s.prevRaw = none ∧ forward lv s = .ok ({ s with prevRaw := some (rawBit lv) }, true)) ∨
    (s.st ≠ .detectSync ∧ ∃ p, s.prevRaw = some p ∧
      forward lv s = pack (rawBit lv == p) { s with prevRaw := some (rawBit lv) }) := by
  unfold forward
  by_cases hst : s.st = .detectSync
  · simp [hst]
  · cases hp : s.prevRaw <;> simp [hst]

/-- `IS_J` is defined at both speeds. -/
theorem isJ_ok {spd : Speed} (h : spd ≠ .none) (lv : Levels) : ∃ b, isJ lv spd = .ok b := by
  cases spd <;> simp_all [isJ]

/-- A differential window ends the packet, or is forwarded, and the SE0 count is cleared. -/
theorem symDiff_cases (lv : Levels) (s : State) :
    (se0Armed s.se0Count = true ∧ s.speed = .none ∧ symDiff lv s = .error (.model .noSpeed)) ∨
    (se0Armed s.se0Count = true ∧ isJ lv s.speed = .ok true ∧
      symDiff lv s = .ok (gotEopStep { s with se0Count := 0#2 }, false)) ∨
    ((se0Armed s.se0Count = false ∨ isJ lv s.speed = .ok false) ∧
      symDiff lv s = forward lv { s with se0Count := 0#2 }) := by
  unfold symDiff
  cases ha : se0Armed s.se0Count with
  | false => right; right; exact ⟨.inl rfl, rfl⟩
  | true =>
    cases hs : s.speed with
    | none => left; exact ⟨rfl, rfl, rfl⟩
    | ls =>
      right
      cases hj : (!lv.dp && lv.dm)
      · right; refine ⟨.inr (by simp [isJ, hj]), ?_⟩; simp [isJ, hj, Bind.bind, Except.bind]
      · left; refine ⟨rfl, by simp [isJ, hj], ?_⟩; simp [isJ, hj, Bind.bind, Except.bind]
    | fs =>
      right
      cases hj : (lv.dp && !lv.dm)
      · right; refine ⟨.inr (by simp [isJ, hj]), ?_⟩; simp [isJ, hj, Bind.bind, Except.bind]
      · left; refine ⟨rfl, by simp [isJ, hj], ?_⟩; simp [isJ, hj, Bind.bind, Except.bind]

/-- The three classes of SYMBOL. -/
theorem symbol_cases (lv : Levels) (t : Binary64) (s : State) :
    (lv = ⟨true, true⟩ ∧ symbol lv t s = .ok (symSe1 t s, false)) ∨
    (lv.dp ≠ lv.dm ∧ symbol lv t s = symDiff lv s) ∨
    (lv = ⟨false, false⟩ ∧ symbol lv t s = symSe0 s) := by
  obtain ⟨dp, dm⟩ := lv
  cases dp <;> cases dm <;> simp [symbol]

/-- The next window's end is defined at both speeds. -/
theorem addPeriod_ok {spd : Speed} (h : spd ≠ .none) (e : Time) : ∃ e', e.addPeriod spd = .ok e' := by
  cases spd <;> simp_all [Time.addPeriod]

/-- OPEN_ATTEMPT at a known speed, with the edge sample counted or not. -/
theorem openAttempt_cases (t : Binary64) (lv : Levels) (s : State) :
    (s.speed = .none ∧ openAttempt t lv s = .error (.model .noSpeed)) ∨
    (∃ e, (Time.ofSample s.cfg.timeArith t).addPeriod s.speed = .ok e ∧
      openAttempt t lv s =
        (if s.cfg.edgeSampleCounted then accumulate lv else .ok) (openWindow e { s with
          st := .detectSync, bufActive := true, bytes := [], curVal := 0#8, curN := 0#4, prevRaw := none,
          se0Count := 0#2 })) := by
  unfold openAttempt
  cases hs : s.speed with
  | none => left; exact ⟨rfl, rfl⟩
  | ls =>
    right
    refine ⟨_, rfl, ?_⟩
    cases s.cfg.edgeSampleCounted <;> rfl
  | fs =>
    right
    refine ⟨_, rfl, ?_⟩
    cases s.cfg.edgeSampleCounted <;> rfl

/-- WINDOW_STEP accumulates, or closes one window and, where the attempt continues, opens the next. -/
theorem windowStep_cases (t : Binary64) (lv : Levels) (s : State) :
    (s.winEnd.reached t = false ∧ windowStep t lv s = accumulate lv s) ∨
    (s.winEnd.reached t = true ∧
      ((∃ e, symbol (resolve s) t { s with winActive := false } = .error e ∧ windowStep t lv s = .error e) ∨
       (∃ s', symbol (resolve s) t { s with winActive := false } = .ok (s', false) ∧ windowStep t lv s = .ok s') ∨
       (∃ s', symbol (resolve s) t { s with winActive := false } = .ok (s', true) ∧
         ((∃ e, s.winEnd.addPeriod s'.speed = .error e ∧ windowStep t lv s = .error e) ∨
          (∃ e, s.winEnd.addPeriod s'.speed = .ok e ∧ windowStep t lv s = accumulate lv (openWindow e s')))))) := by
  unfold windowStep
  cases hr : s.winEnd.reached t with
  | false => left; exact ⟨rfl, rfl⟩
  | true =>
    right
    refine ⟨rfl, ?_⟩
    cases hy : symbol (resolve s) t { s with winActive := false } with
    | error e => left; exact ⟨e, rfl, by simp [Bind.bind, Except.bind]⟩
    | ok r =>
      right
      obtain ⟨s', cont⟩ := r
      cases cont with
      | false => left; exact ⟨s', rfl, by simp [Bind.bind, Except.bind]⟩
      | true =>
        right
        refine ⟨s', rfl, ?_⟩
        cases he : s.winEnd.addPeriod s'.speed with
        | error e => left; exact ⟨e, rfl, by simp [Bind.bind, Except.bind, he]⟩
        | ok e => right; exact ⟨e, rfl, by simp [Bind.bind, Except.bind, he]⟩

/-- SPEED_STEP writes SPEED, and leaves UNKNOWN once the speed is known and a previous sample exists. -/
theorem speedStep_cases (lv : Levels) (s : State) :
    (inferSpeed lv s.speed ≠ .none ∧ s.prevLv ≠ none ∧
      speedStep lv s = { s with speed := inferSpeed lv s.speed, st := .idle }) ∨
    ((inferSpeed lv s.speed = .none ∨ s.prevLv = none) ∧
      speedStep lv s = { s with speed := inferSpeed lv s.speed }) := by
  unfold speedStep
  by_cases h1 : inferSpeed lv s.speed = .none
  · right; exact ⟨.inl h1, by simp [h1]⟩
  · by_cases h2 : s.prevLv = none
    · right; exact ⟨.inr h2, by simp [h2]⟩
    · left; exact ⟨h1, h2, by simp [h1, h2]⟩

/-- A known speed is never inferred again (R19). -/
theorem inferSpeed_known {lv : Levels} {spd : Speed} (h : spd ≠ .none) : inferSpeed lv spd = spd := by
  simp [inferSpeed, h]

/-- IDLE_STEP does nothing on equal levels and opens an attempt on an edge. -/
theorem idleStep_cases (t : Binary64) (lv : Levels) (s : State) :
    (s.prevLv = none ∧ idleStep t lv s = .error (.model .noBaseline)) ∨
    (s.prevLv = some lv ∧ idleStep t lv s = .ok s) ∨
    (s.prevLv ≠ none ∧ s.prevLv ≠ some lv ∧ idleStep t lv s = openAttempt t lv s) := by
  unfold idleStep
  cases hp : s.prevLv with
  | none => left; exact ⟨rfl, rfl⟩
  | some p =>
    right
    by_cases h : lv = p
    · left; subst h; exact ⟨rfl, by simp⟩
    · right; exact ⟨by simp, fun e => h (Option.some.inj e).symm, by simp [h]⟩

theorem stateStep_unknown {s : State} (t : Binary64) (lv : Levels) (h : s.st = .unknown) :
    stateStep t lv s = .ok (speedStep lv s) := by
  unfold stateStep; rw [h]

theorem stateStep_idle {s : State} (t : Binary64) (lv : Levels) (h : s.st = .idle) :
    stateStep t lv s = idleStep t lv s := by
  unfold stateStep; rw [h]

theorem stateStep_attempt {s : State} (t : Binary64) (lv : Levels) (h : s.st = .detectSync ∨ s.st = .receive) :
    stateStep t lv s = windowStep t lv s := by
  unfold stateStep; rcases h with h | h <;> rw [h]

theorem stateStep_transient {s : State} (t : Binary64) (lv : Levels) (h : s.st = .gotSe1 ∨ s.st = .gotEop) :
    stateStep t lv s = .error (.model .transientState) := by
  unfold stateStep; rcases h with h | h <;> rw [h]

/-- FEED of a block that is not stuck: a breach of the contract, or the action of its state and the commit. -/
theorem feed_cases (t vdp vdm : Binary64) (s : State) :
    (∃ c, contractBreach t vdp vdm s.lastT = some c ∧ feed t vdp vdm s = .error (.raise c)) ∨
    (contractBreach t vdp vdm s.lastT = none ∧
      ((∃ e, stateStep t (levels vdp vdm) { s with sampleT := t } = .error e ∧ feed t vdp vdm s = .error e) ∨
       (∃ s', stateStep t (levels vdp vdm) { s with sampleT := t } = .ok s' ∧
         feed t vdp vdm s = .ok (feedCommit t (levels vdp vdm) s')))) := by
  unfold feed
  cases hc : contractBreach t vdp vdm s.lastT with
  | some c => left; exact ⟨c, rfl, rfl⟩
  | none =>
    right
    refine ⟨rfl, ?_⟩
    cases hy : stateStep t (levels vdp vdm) { s with sampleT := t } with
    | error e => left; exact ⟨e, rfl, by simp [Bind.bind, Except.bind, hy]⟩
    | ok s' => right; exact ⟨s', rfl, by simp [Bind.bind, Except.bind, hy]⟩

/-- How an operation ends. -/
theorem finish_next {before t : State} {r : Except Stop State} (h : finish before r = .next t) :
    r = .ok t ∨ ∃ c, r = .error (.raise c) ∧ t = raiseFault c before := by
  unfold finish at h
  split at h
  · exact .inl (by simpa using h)
  · rename_i c; exact .inr ⟨c, rfl, by simpa using h.symm⟩
  · simp at h

/-- How a subroutine ends. -/
theorem finishSub_next {before t : State} {r : Except Stop (State × Bool)} (h : finishSub before r = .next t) :
    (∃ cont, r = .ok (t, cont)) ∨ ∃ c, r = .error (.raise c) ∧ t = raiseFault c before := by
  unfold finishSub at h
  split at h
  · rename_i s cont; exact .inl ⟨cont, by simpa using h⟩
  · rename_i c; exact .inr ⟨c, rfl, by simpa using h.symm⟩
  · simp at h

/-- A step with a pending sample runs FEED on it. -/
theorem step_sample {s : State} {w : BitVec 192} {rest : List Input} (h : s.inputs = .sample w :: rest) :
    step s = match exec (decodeSample w) { s with inputs := rest } with
      | .next t => .next { t with feedIndex := t.feedIndex + 1 }
      | .fault f => .fault f
      | .refused r => .refused r := by
  simp only [step, fetch, h, Input.toCode, decode, decodeSample]
  cases exec _ _ <;> rfl

/-- A step with a pending reset runs RESET on it. -/
theorem step_reset {s : State} {c : BitVec 2} {rest : List Input} (h : s.inputs = .reset c :: rest) :
    step s = exec (.reset c) { s with inputs := rest } := by
  simp only [step, fetch, h, Input.toCode, decode]
  cases exec _ _ <;> rfl

/-- A step with no pending input does nothing. -/
theorem step_empty {s : State} (h : s.inputs = []) : step s = .next s := by
  simp [step, fetch, h]

end Sys2Proof.Machine
end

