-- ==== Sys2Proof/Laws/Attempt.lean ====
section
/-! SUPPORT. What a line-symbol operation leaves unchanged, and what it leaves true of an attempt: said once for each
subroutine, from PACK up to SYMBOL. -/

namespace Sys2Proof.Machine

/-- The registers that no line-symbol operation writes. -/
structure Kept (s t : State) : Prop where
  speed : t.speed = s.speed
  hint : t.hint = s.hint
  prevLv : t.prevLv = s.prevLv
  lastT : t.lastT = s.lastT
  sumDp : t.sumDp = s.sumDp
  sumDm : t.sumDm = s.sumDm
  winEnd : t.winEnd = s.winEnd
  fault : t.fault = s.fault
  cfg : t.cfg = s.cfg
  inputs : t.inputs = s.inputs
  feedIndex : t.feedIndex = s.feedIndex
  sampleT : t.sampleT = s.sampleT

theorem Kept.refl (s : State) : Kept s s := ⟨rfl, rfl, rfl, rfl, rfl, rfl, rfl, rfl, rfl, rfl, rfl, rfl⟩

theorem Kept.trans {a b c : State} (h : Kept a b) (h' : Kept b c) : Kept a c :=
  ⟨h'.speed.trans h.speed, h'.hint.trans h.hint, h'.prevLv.trans h.prevLv, h'.lastT.trans h.lastT,
   h'.sumDp.trans h.sumDp, h'.sumDm.trans h.sumDm, h'.winEnd.trans h.winEnd, h'.fault.trans h.fault,
   h'.cfg.trans h.cfg, h'.inputs.trans h.inputs, h'.feedIndex.trans h.feedIndex, h'.sampleT.trans h.sampleT⟩

theorem discard_kept (s : State) : Kept s (discard s) :=
  ⟨rfl, rfl, rfl, rfl, rfl, rfl, rfl, rfl, rfl, rfl, rfl, rfl⟩

/-- After DISCARD nothing of the attempt is left. -/
structure Ended (t : State) : Prop where
  st : t.st = .idle
  winActive : t.winActive = false
  bufActive : t.bufActive = false
  bytes : t.bytes = []
  curVal : t.curVal = 0#8
  curN : t.curN = 0#4
  prevRaw : t.prevRaw = none

theorem discard_ended (s : State) : Ended (discard s) := ⟨rfl, rfl, rfl, rfl, rfl, rfl, rfl⟩

/-- What holds of the buffer and the accumulator of an attempt in progress. -/
structure Going (s : State) : Prop where
  st : s.st = .detectSync ∨ s.st = .receive
  speed : s.speed ≠ .none
  bufActive : s.bufActive = true
  bytes_detect : s.st = .detectSync → s.bytes = []
  bytes_receive : s.st = .receive → ∃ b rest, s.bytes = b :: rest ∧ syncPattern s.speed = .ok b
  bytes_cap : Memory.wf s.cfg.bufCap s.bytes = true
  partial_byte : s.curN.toNat ≤ 7 ∧ s.curVal.toNat < 2 ^ s.curN.toNat
  se0_range : s.se0Count.toNat ≤ 2
  seed : s.cfg.nrziSeed = .lastSyncBit → s.st = .receive → s.prevRaw ≠ none

/-- An empty buffer is in canonical form, whatever the capacity. -/
theorem empty_wf (cap : Option Nat) : Memory.wf cap [] = true := by cases cap <;> simp [Memory.wf]

/-- The buffer is in canonical form after reset. -/
theorem reset_memory_wf : Memory.wf State.reset.cfg.bufCap State.reset.bytes = true := rfl

/-- DISCARD and RESET leave the buffer in canonical form, as they empty it. -/
theorem discard_wf (s : State) : Memory.wf (discard s).cfg.bufCap (discard s).bytes = true := empty_wf _

theorem resetState_wf (h : Hint) (s : State) : Memory.wf (resetState h s).cfg.bufCap (resetState h s).bytes = true :=
  empty_wf _

/-- BufAppend into a buffer that is not full keeps the canonical form. -/
theorem bufAppend_wf {cap : Option Nat} {b : List Byte} (v : Byte) (h : Memory.wf cap b = true)
    (hf : bufFull cap b = false) : Memory.wf cap (bufAppend b v) = true := by
  cases cap with
  | none => rfl
  | some n =>
    simp [Memory.wf, bufFull, bufAppend] at *
    omega

/-- BufAppend never moves the first byte (R36). -/
theorem bufAppend_first (b : List Byte) (v : Byte) :
    memRead (bufAppend b v) 0 = some (firstAfterAppend b v) := by
  cases b <;> rfl

/-- BufAppend leaves every byte of the buffer in place (R36). -/
theorem bufAppend_read (b : List Byte) (v : Byte) (i : Nat) (h : i < b.length) :
    memRead (bufAppend b v) i = memRead b i := by
  simp [memRead, bufAppend, List.getElem?_append_left h]

/-- The appended byte is read at the old length (R36). -/
theorem bufAppend_new (b : List Byte) (v : Byte) : memRead (bufAppend b v) b.length = some v := by
  simp [memRead, bufAppend]

theorem placeBit_lt {val : BitVec 8} {n : BitVec 4} (bit : Bool)
    (h : val.toNat < 2 ^ n.toNat) : (placeBit val n bit).toNat < 2 ^ (n.toNat + 1) := by
  unfold placeBit
  rw [BitVec.toNat_or]
  apply Nat.or_lt_two_pow
  · exact lt_trans h (Nat.pow_lt_pow_right (by omega) (by omega))
  · have h1 : ((BitVec.ofBool bit).setWidth 8 <<< n.toNat).toNat ≤ 2 ^ n.toNat := by
      rw [BitVec.toNat_shiftLeft, BitVec.toNat_setWidth, BitVec.toNat_ofBool, Nat.shiftLeft_eq]
      refine le_trans (Nat.mod_le _ _) ?_
      cases bit <;> simp
    exact lt_of_le_of_lt h1 (Nat.pow_lt_pow_right (by omega) (by omega))

theorem curN_succ {n : BitVec 4} (h7 : n.toNat ≤ 7) :
    (n + 1#4 = 8#4 → n.toNat = 7) ∧ (n + 1#4 ≠ 8#4 → n.toNat < 7 ∧ (n + 1#4).toNat = n.toNat + 1) := by
  revert h7; revert n; decide

/-- What a line-symbol operation answers: the attempt goes on and nothing is emitted, or it ends. -/
structure Answers (s t : State) (cont : Bool) : Prop where
  kept : Kept s t
  goes : cont = true → Going t ∧ t.winActive = s.winActive ∧ t.log = s.log
  ends : cont = false → Ended t

theorem syncCheck_answers {b : Byte} {s t : State} {cont : Bool}
    (h : syncCheck b s = .ok (t, cont)) (hb : s.bytes = [b])
    (hbuf : s.bufActive = true) (hcap : Memory.wf s.cfg.bufCap s.bytes = true)
    (hse : s.se0Count.toNat ≤ 2) (hp : s.prevRaw ≠ none) : Answers s t cont ∧ t.log = s.log := by
  rcases syncCheck_cases b s with ⟨-, he⟩ | ⟨hs, he⟩ | ⟨-, -, he⟩
  · rw [he] at h; simp at h
  · rw [he] at h
    simp only [Except.ok.injEq, Prod.mk.injEq] at h
    obtain ⟨rfl, rfl⟩ := h
    refine ⟨⟨⟨rfl, rfl, rfl, rfl, rfl, rfl, rfl, rfl, rfl, rfl, rfl, rfl⟩, fun _ => ⟨?_, rfl, rfl⟩, by simp⟩, rfl⟩
    refine ⟨.inr rfl, ?_, hbuf, by simp, fun _ => ⟨b, [], hb, hs⟩, hcap, by simp, hse, ?_⟩
    · intro hn; simp only at hn; rw [hn] at hs; simp [syncPattern] at hs
    · intro hseed _; simp only at hseed; simp [hseed, hp]
  · rw [he] at h
    simp only [Except.ok.injEq, Prod.mk.injEq] at h
    obtain ⟨rfl, rfl⟩ := h
    exact ⟨⟨discard_kept s, by simp, fun _ => discard_ended s⟩, rfl⟩

theorem pack_answers {bit : Bool} {s t : State} {cont : Bool} (h : pack bit s = .ok (t, cont))
    (hg : Going s) (hp : s.prevRaw ≠ none) : Answers s t cont ∧ t.log = s.log := by
  have h7 := curN_succ hg.partial_byte.1
  rcases pack_cases bit s with ⟨hn, he⟩ | ⟨-, -, he⟩ | ⟨hn, hf, hst, he⟩ | ⟨hn, hf, hst, he⟩
  · rw [he] at h
    simp only [Except.ok.injEq, Prod.mk.injEq] at h
    obtain ⟨rfl, rfl⟩ := h
    have hlt := h7.2 hn
    refine ⟨⟨⟨rfl, rfl, rfl, rfl, rfl, rfl, rfl, rfl, rfl, rfl, rfl, rfl⟩, fun _ => ⟨?_, rfl, rfl⟩, by simp⟩, rfl⟩
    refine ⟨hg.st, hg.speed, hg.bufActive, hg.bytes_detect, hg.bytes_receive, hg.bytes_cap, ?_, hg.se0_range, hg.seed⟩
    refine ⟨by simp only; omega, ?_⟩
    simp only [hlt.2]
    exact placeBit_lt bit hg.partial_byte.2
  · rw [he] at h; simp at h
  · rw [he] at h
    simp only [Except.ok.injEq, Prod.mk.injEq] at h
    obtain ⟨rfl, rfl⟩ := h
    have hr : s.st = .receive := hg.st.resolve_left hst
    obtain ⟨b, rest, hb, hsy⟩ := hg.bytes_receive hr
    refine ⟨⟨⟨rfl, rfl, rfl, rfl, rfl, rfl, rfl, rfl, rfl, rfl, rfl, rfl⟩, fun _ => ⟨?_, rfl, rfl⟩, by simp⟩, rfl⟩
    refine ⟨hg.st, hg.speed, hg.bufActive, fun hd => absurd hd hst, fun _ => ⟨b, rest ++ [placeBit s.curVal s.curN bit], ?_, hsy⟩,
      bufAppend_wf _ hg.bytes_cap hf, by simp, hg.se0_range, hg.seed⟩
    simp only [bufAppend, hb, List.cons_append]
  · rw [he] at h
    have hb := hg.bytes_detect hst
    have := syncCheck_answers h (by simp [bufAppend, hb, firstAfterAppend]) hg.bufActive
      (bufAppend_wf _ hg.bytes_cap hf) hg.se0_range hp
    refine ⟨⟨?_, this.1.goes, this.1.ends⟩, this.2⟩
    have hk := this.1.kept
    exact ⟨hk.speed, hk.hint, hk.prevLv, hk.lastT, hk.sumDp, hk.sumDm, hk.winEnd, hk.fault, hk.cfg, hk.inputs,
      hk.feedIndex, hk.sampleT⟩

theorem forward_answers {lv : Levels} {s t : State} {cont : Bool} (h : forward lv s = .ok (t, cont))
    (hg : Going s) : Answers s t cont ∧ t.log = s.log := by
  have hg' : Going { s with prevRaw := some (rawBit lv) } :=
    ⟨hg.st, hg.speed, hg.bufActive, hg.bytes_detect, hg.bytes_receive, hg.bytes_cap, hg.partial_byte, hg.se0_range,
      fun _ _ => by simp⟩
  have lift : ∀ {bit : Bool}, pack bit { s with prevRaw := some (rawBit lv) } = .ok (t, cont) →
      Answers s t cont ∧ t.log = s.log := by
    intro bit hp
    have ha := pack_answers hp hg' (by simp)
    have hk := ha.1.kept
    exact ⟨⟨⟨hk.speed, hk.hint, hk.prevLv, hk.lastT, hk.sumDp, hk.sumDm, hk.winEnd, hk.fault, hk.cfg, hk.inputs,
      hk.feedIndex, hk.sampleT⟩, ha.1.goes, ha.1.ends⟩, ha.2⟩
  rcases forward_cases lv s with ⟨-, he⟩ | ⟨-, -, he⟩ | ⟨-, p, -, he⟩
  · exact lift (he ▸ h)
  · rw [he] at h
    simp only [Except.ok.injEq, Prod.mk.injEq] at h
    obtain ⟨rfl, rfl⟩ := h
    exact ⟨⟨⟨rfl, rfl, rfl, rfl, rfl, rfl, rfl, rfl, rfl, rfl, rfl, rfl⟩, fun _ => ⟨hg', rfl, rfl⟩, by simp⟩, rfl⟩
  · exact lift (he ▸ h)

theorem gotEopStep_eq (s : State) : gotEopStep s = discard { s with
    log := if 1 < s.bytes.length then s.log ++ [(s.feedIndex, .packet (classify s.cfg.crc5Order s.bytes))]
      else s.log } := by
  unfold gotEopStep
  by_cases h : 1 < s.bytes.length <;> simp [h, emit, discard]

theorem symSe1_eq (t : Binary64) (s : State) : symSe1 t s = discard { s with
    log := s.log ++ [(s.feedIndex, .diag .se1Detected t)] } := rfl

theorem se0Saturate_le (c : BitVec 2) : (se0Saturate c).toNat ≤ 2 := by revert c; decide

/-- Neither PACK nor FORWARD touches the SE0 count. -/
theorem syncCheck_se0 {b : Byte} {s t : State} {cont : Bool} (h : syncCheck b s = .ok (t, cont)) :
    t.se0Count = s.se0Count := by
  rcases syncCheck_cases b s with ⟨-, he⟩ | ⟨-, he⟩ | ⟨-, -, he⟩ <;> rw [he] at h <;> simp at h <;>
    obtain ⟨rfl, -⟩ := h <;> rfl

theorem pack_se0 {bit : Bool} {s t : State} {cont : Bool} (h : pack bit s = .ok (t, cont)) :
    t.se0Count = s.se0Count := by
  rcases pack_cases bit s with ⟨-, he⟩ | ⟨-, -, he⟩ | ⟨-, -, -, he⟩ | ⟨-, -, -, he⟩ <;> rw [he] at h
  · simp at h; obtain ⟨rfl, -⟩ := h; rfl
  · simp at h
  · simp at h; obtain ⟨rfl, -⟩ := h; rfl
  · have := syncCheck_se0 h; exact this

theorem forward_se0 {lv : Levels} {s t : State} {cont : Bool} (h : forward lv s = .ok (t, cont)) :
    t.se0Count = s.se0Count := by
  rcases forward_cases lv s with ⟨-, he⟩ | ⟨-, -, he⟩ | ⟨-, p, -, he⟩ <;> rw [he] at h
  · have := pack_se0 h; exact this
  · simp at h; obtain ⟨rfl, -⟩ := h; rfl
  · have := pack_se0 h; exact this

/-- What a resolved pair does to an attempt: its records are those of SE1 or of an EOP. -/
theorem symbol_answers {lv : Levels} {tm : Binary64} {s t : State} {cont : Bool}
    (h : symbol lv tm s = .ok (t, cont)) (hg : Going s) :
    Answers s t cont ∧ t.se0Count.toNat ≤ 2 ∧
      (t.log = s.log ∨
       (lv = ⟨true, true⟩ ∧ t.log = s.log ++ [(s.feedIndex, .diag .se1Detected tm)]) ∨
       (isJ lv s.speed = .ok true ∧ se0Armed s.se0Count = true ∧ 1 < s.bytes.length ∧
         t.log = s.log ++ [(s.feedIndex, .packet (classify s.cfg.crc5Order s.bytes))])) := by
  have fwd : ∀ {c : BitVec 2}, c.toNat ≤ 2 → forward lv { s with se0Count := c } = .ok (t, cont) →
      Answers s t cont ∧ t.se0Count.toNat ≤ 2 ∧ t.log = s.log := by
    intro c hc hf
    have hg' : Going { s with se0Count := c } :=
      ⟨hg.st, hg.speed, hg.bufActive, hg.bytes_detect, hg.bytes_receive, hg.bytes_cap, hg.partial_byte, hc, hg.seed⟩
    have ha := forward_answers hf hg'
    have hk := ha.1.kept
    refine ⟨⟨⟨hk.speed, hk.hint, hk.prevLv, hk.lastT, hk.sumDp, hk.sumDm, hk.winEnd, hk.fault, hk.cfg, hk.inputs,
      hk.feedIndex, hk.sampleT⟩, ha.1.goes, ha.1.ends⟩, ?_, ha.2⟩
    cases cont with
    | true => exact (ha.1.goes rfl).1.se0_range
    | false => rw [forward_se0 hf]; exact hc
  rcases symbol_cases lv tm s with ⟨hl, he⟩ | ⟨-, he⟩ | ⟨hl, he⟩
  · rw [he] at h
    simp only [Except.ok.injEq, Prod.mk.injEq] at h
    obtain ⟨rfl, rfl⟩ := h
    refine ⟨⟨⟨rfl, rfl, rfl, rfl, rfl, rfl, rfl, rfl, rfl, rfl, rfl, rfl⟩, by simp, fun _ => discard_ended _⟩,
      hg.se0_range, .inr (.inl ⟨hl, rfl⟩)⟩
  · rw [he] at h
    rcases symDiff_cases lv s with ⟨-, -, hd⟩ | ⟨ha, hj, hd⟩ | ⟨-, hd⟩
    · rw [hd] at h; simp at h
    · rw [hd] at h
      simp only [Except.ok.injEq, Prod.mk.injEq] at h
      obtain ⟨rfl, rfl⟩ := h
      rw [gotEopStep_eq]
      refine ⟨⟨⟨rfl, rfl, rfl, rfl, rfl, rfl, rfl, rfl, rfl, rfl, rfl, rfl⟩, by simp, fun _ => discard_ended _⟩,
        by simp, ?_⟩
      by_cases hl : 1 < s.bytes.length
      · right; right; exact ⟨hj, ha, hl, by simp [hl]⟩
      · left; simp [hl]
    · rw [hd] at h
      have := fwd (by simp) h
      exact ⟨this.1, this.2.1, .inl this.2.2⟩
  · rw [he] at h
    subst hl
    have := fwd (se0Saturate_le _) h
    exact ⟨this.1, this.2.1, .inl this.2.2⟩

/-! The invariant under the updates that a step makes around FEED. -/

theorem accOverflows_zero (n : Option Nat) : accOverflows n 0 = false := by cases n <;> simp [accOverflows]

/-- Pending inputs are no part of the invariant. -/
theorem inv_inputs {s : State} (h : s.Inv) (l : List Input) : ({ s with inputs := l } : State).Inv := by
  obtain ⟨h1, h2, h3, h4, h5, h6, h7, h8, h9, h10, h11, h12, h13, h14, h15, h16⟩ := h
  exact ⟨h1, h2, h3, h4, h5, h6, h7, h8, h9, h10, h11, h12, h13, h14, h15, h16⟩

/-- A fault entry keeps the invariant: FAULT is no part of it. -/
theorem inv_raiseFault {s : State} (h : s.Inv) (c : FaultCode) : (raiseFault c s).Inv := by
  obtain ⟨h1, h2, h3, h4, h5, h6, h7, h8, h9, h10, h11, h12, h13, h14, h15, h16⟩ := h
  exact ⟨h1, h2, h3, h4, h5, h6, h7, h8, h9, h10, h11, h12, h13, h14, h15, h16⟩

/-- A later index keeps the records in order. -/
theorem inv_advance {s : State} (h : s.Inv) : ({ s with feedIndex := s.feedIndex + 1 } : State).Inv := by
  obtain ⟨h1, h2, h3, h4, h5, h6, h7, h8, h9, h10, h11, h12, h13, h14, h15, h16⟩ := h
  refine ⟨h1, h2, h3, h4, h5, h6, h7, h8, h9, h10, h11, h12, h13, h14, ⟨h15.1, fun e he => ?_⟩, h16⟩
  exact Nat.lt_succ_of_lt (h15.2 e he)

/-- What the invariant says of an attempt in progress. -/
theorem going_of_inv {s : State} (h : s.Inv) (ha : s.st = .detectSync ∨ s.st = .receive) : Going s := by
  have : inAttempt s = true := by rcases ha with h | h <;> simp [inAttempt, h]
  exact ⟨ha, (h.known (by rcases ha with h | h <;> simp [h])).1, by rw [h.buffer_active, h.window_active, this],
    h.bytes_detect, h.bytes_receive, h.bytes_cap, h.partial_byte, h.se0_range, h.seed⟩

end Sys2Proof.Machine
end

