-- ==== Sys2Proof/Laws/PerInstr.lean ====
section
/-! SUPPORT. Statements made for every operation, one lemma per constructor. -/

namespace Sys2Proof.Laws.EncodeMatchesRow

/-- The word that a well-formed operation is encoded as is covered first by the row of its own mnemonic
(spec/opcode_table.json). -/
def Statement (i : Instr) : Prop := i.wf = true → (tableRow (encode i)).map Row.mnemonic = some i.mnemonic

theorem feed (t vdp vdm : Binary64) : Statement (.feed t vdp vdm) := by
  intro; simp [encode, tableRow, opcodeTable, Row.covers, Code.format, Instr.mnemonic]

theorem reset (h : BitVec 2) : Statement (.reset h) := by
  intro; simp [encode, tableRow, opcodeTable, Row.covers, Code.format, Instr.mnemonic]

theorem se0 : Statement .se0 := fun _ => rfl
theorem diff01 : Statement .diff01 := fun _ => rfl
theorem diff10 : Statement .diff10 := fun _ => rfl
theorem se1 : Statement .se1 := fun _ => rfl
theorem syncFs : Statement .syncFs := fun _ => rfl
theorem syncLs : Statement .syncLs := fun _ => rfl
theorem sof : Statement .sof := fun _ => rfl
theorem setup : Statement .setup := fun _ => rfl
theorem inToken : Statement .inToken := fun _ => rfl
theorem outToken : Statement .outToken := fun _ => rfl
theorem data0 : Statement .data0 := fun _ => rfl
theorem data1 : Statement .data1 := fun _ => rfl
theorem ack : Statement .ack := fun _ => rfl
theorem nak : Statement .nak := fun _ => rfl
theorem stall : Statement .stall := fun _ => rfl
theorem raw (pid : Byte) : Statement (.raw pid) := by
  revert pid; unfold Statement; decide +kernel

end Sys2Proof.Laws.EncodeMatchesRow
end

