-- ==== Sys2Proof/Tests/Slice0.lean ====
section
/-! SUPPORT. Tests of one step each, with values from spec/95_test_vectors.md and the examples of the rules (the vector's name
stands in the comment), and for each statement states and operands that meet its hypotheses. -/

namespace Sys2Proof.Tests

open Sys2Proof Sys2Proof.Machine

-- Many kernel evaluations in a row: one at a time, so that none waits on a thread of its own.
set_option Elab.async false

/-! ## States and readers -/

/-- The state that an operation answers. -/
def out (o : Host.Outcome State Fault Refusal) : Option State :=
  match o with
  | .next t => some t
  | .fault _ => none
  | .refused _ => none

/-- The fault that an operation answers. -/
def stop (o : Host.Outcome State Fault Refusal) : Option Fault :=
  match o with
  | .next _ => none
  | .fault f => some f
  | .refused _ => none

/-- A FEED whose voltages show these levels. -/
def show_ (t : Binary64) (lv : Levels) : Instr := .feed t (voltage lv.dp) (voltage lv.dm)

def lvJ : Levels := ⟨true, false⟩
def lvK : Levels := ⟨false, true⟩
def lvSe0 : Levels := ⟨false, false⟩
def lvSe1 : Levels := ⟨true, true⟩

/-- 1e-7, 2e-7 and 1e-6; `E1` and `E2` of the BC vectors, and the value just below `E1`. -/
def t1 : Binary64 := 0x3e7ad7f29abcaf48#64
def t2 : Binary64 := 0x3e8ad7f29abcaf48#64
def tEdge : Binary64 := 0x3eb0c6f7a0b5ed8d#64
def e1 : Binary64 := 0x3eb22ce198c516ae#64
def belowE1 : Binary64 := 0x3eb22ce198c516ad#64
def e2 : Binary64 := 0x3eb392cb90d43fcf#64
def nanWord : Binary64 := 0x7ff8000000000000#64
def infWord : Binary64 := 0x7ff0000000000000#64

/-- After the base samples of the BC and EX vectors: IDLE at full speed, the last sample J at 1e-7. -/
def idle : State :=
  { State.reset with st := .idle, speed := .fs, hint := .forceFs, prevLv := some lvJ, lastT := some t1, feedIndex := 2 }

/-- After the edge sample K at 1e-6 of the BC vectors. -/
def detect : State :=
  { idle with
    st := .detectSync, winActive := true, bufActive := true, winEnd := .bin e1, sumDp := -1, sumDm := 1,
    prevLv := some lvK, lastT := some tEdge, feedIndex := 3 }

/-- A full-speed attempt that has acquired. -/
def recv : State := { detect with st := .receive, bytes := [0x2a#8], prevRaw := some false }

/-- A low-speed attempt that has acquired. -/
def recvLs : State := { recv with speed := .ls, hint := .forceLs, bytes := [0xd5#8], prevRaw := some true }

/-- The attempt `s` with the open window's sums those of one sample. -/
def voting (lv : Levels) (s : State) : State := { s with sumDp := weight lv.dp, sumDm := weight lv.dm }

/-- The record an operation puts on its output. -/
def record (o : Host.Outcome State Fault Refusal) : Option Output := (out o).bind fun t => t.log.getLast?.map Prod.snd

/-- A full-speed attempt with these bytes. -/
def holding (b : List Byte) : State := { recv with bytes := b }

/-! ## WellFormed: each check refuses a term that breaks it, and admits its neighbours -/

theorem test_wf_refuses_reserved_hint : (Instr.reset 3#2).wf = false := by decide
theorem test_wf_refuses_raw_with_named_pid : (namedPids.all fun b => !(Instr.raw b).wf) = true := by decide
theorem test_wf_admits : (Instr.reset 2#2).wf = true ∧ (Instr.raw 0xb4#8).wf = true := by decide

/-! ## Decode: one word of each row, written from the encodings of R48 to R54 -/

theorem test_decode_feed :
    decode (.sample (0x3eadb5abd74229ff#64 ++ 0x4008000000000000#64 ++ 0x3fc999999999999a#64)) =
      .ok (.feed 0x3eadb5abd74229ff#64 0x4008000000000000#64 0x3fc999999999999a#64) := by decide
theorem test_decode_reset : decode (.hint 0b01#2) = .ok (.reset 0b01#2) := by decide
theorem test_decode_line :
    decode (.line 0b00#2) = .ok .se0 ∧ decode (.line 0b01#2) = .ok .diff01 ∧ decode (.line 0b10#2) = .ok .diff10 ∧
      decode (.line 0b11#2) = .ok .se1 := by decide
theorem test_decode_sync :
    decode (.sync 0b00101010#8) = .ok .syncFs ∧ decode (.sync 0b11010101#8) = .ok .syncLs ∧
      decode (.sync 0b00101011#8) = .error (.notSync 0x2b#8) := by decide
theorem test_decode_token_pids :
    decode (.pid 0b10100101#8) = .ok .sof ∧ decode (.pid 0b00101101#8) = .ok .setup ∧
      decode (.pid 0b01101001#8) = .ok .inToken ∧ decode (.pid 0b11100001#8) = .ok .outToken := by decide
theorem test_decode_data_and_handshake_pids :
    decode (.pid 0b11000011#8) = .ok .data0 ∧ decode (.pid 0b01001011#8) = .ok .data1 ∧
      decode (.pid 0b11010010#8) = .ok .ack ∧ decode (.pid 0b01011010#8) = .ok .nak ∧
      decode (.pid 0b00011110#8) = .ok .stall := by decide
/-- PC-21, PC-22: complementary nibbles, and one bit off ACK. -/
theorem test_decode_raw_pids :
    decode (.pid 0b10110100#8) = .ok (.raw 0xb4#8) ∧ decode (.pid 0b11010011#8) = .ok (.raw 0xd3#8) := by decide

/-- The host's numbers for the rows that a number alone tells apart. -/
theorem test_table_words :
    decodeTableWord 8 0x01 = some .diff01 ∧ decodeTableWord 8 0x03 = some .se1 ∧ decodeTableWord 8 0x2a = some .syncFs ∧
      decodeTableWord 8 0xe1 = some .outToken ∧ decodeTableWord 192 0 = some (.feed 0#64 0#64 0#64) := by decide

/-! ## Primitives -/

/-- LV-1 to LV-11. -/
theorem test_level_vectors :
    ([0x3fc999999999999a#64, 0x4008000000000000#64, 0x3ff3333333333333#64, 0x3ff3333333333332#64, 0x3ff3333333333334#64,
      0x8000000000000000#64, 0x0000000000000000#64, 0x7ff0000000000000#64, 0xfff0000000000000#64, 0xc014000000000000#64,
      0x7fe1ccf385ebc8a0#64].map level) =
      [false, true, true, false, true, false, false, true, false, false, true] := by decide +kernel
/-- BC: `E1 = fadd(1e-6, P_FS)` and `E2 = fadd(E1, P_FS)`, with the words the vectors print. -/
theorem test_fadd_schedule : fadd tEdge periodFs = e1 ∧ fadd e1 periodFs = e2 := by decide +kernel
/-- CR-1 to CR-9. -/
theorem test_crc5_vectors :
    ([0x000#11, 0x001#11, 0x123#11, 0x400#11, 0x7ff#11, 0x105#11, 0x081#11, 0x715#11, 0x53a#11].map
      fun n => (crc5Doc n, crc5Usb n)) =
      [(8, 2), (13, 29), (10, 30), (23, 22), (2, 8), (5, 31), (3, 11), (29, 29), (7, 7)] := by decide +kernel
/-- CR-11 to CR-15. -/
theorem test_crc16_vectors :
    ([[0x00#8], [0x01#8], [0xff#8], [0x01#8, 0x02#8, 0x03#8], [0x00#8, 0x01#8, 0x02#8, 0x03#8]].map crc16) =
      [0xbf40#16, 0x7f81#16, 0xff00#16, 0x9e9e#16, 0x7aef#16] := by decide +kernel
/-! ## FEED -/

/-- SP-3, second sample: the sample that infers the speed also enters IDLE, having a predecessor. -/
theorem test_feed_infers_and_enters_idle :
    (out (exec (show_ t1 lvJ) { State.reset with prevLv := some lvSe0, lastT := some 0#64 })).map
      (fun t => (t.st, t.speed, t.prevLv)) = some (.idle, .fs, some lvJ) := by decide +kernel
/-- SP-6, third sample, and BC-1, first: an edge in IDLE opens an attempt whose window counts the edge sample. -/
theorem test_feed_edge :
    (out (exec (show_ tEdge lvK) idle)).map (fun t => (t.st, t.sumDp, t.sumDm, t.winEnd, t.bufActive)) =
      some (.detectSync, -1, 1, .bin e1, true) := by decide +kernel
/-- BC-3: the value just below `E1` does not close. -/
theorem test_feed_below_end_accumulates :
    (out (exec (show_ belowE1 lvK) detect)).map (fun t => (t.sumDp, t.sumDm, t.curN)) = some (-2, 2, 0#4) := by
  decide +kernel
/-- BC-2: a sample at `E1` closes window 1, which resolves to K, and starts window 2. -/
theorem test_feed_at_end_closes :
    (out (exec (show_ e1 lvK) detect)).map (fun t => (t.sumDp, t.sumDm, t.winEnd, t.curN, t.prevRaw)) =
      some (-1, 1, .bin e2, 1#4, some false) := by decide +kernel
/-- BC-4: sums of 0 resolve to SE0. -/
theorem test_feed_tie_is_se0 :
    (out (exec (show_ e1 lvJ) { detect with sumDp := 0, sumDm := 0 })).map (fun t => (t.se0Count, t.sumDp, t.sumDm)) =
      some (1#2, 1, -1) := by decide +kernel
/-- BC-7: two SE1 samples of five; the diagnostic has the closing sample's timestamp. -/
theorem test_feed_se1 :
    (out (exec (show_ e1 lvJ) { detect with sumDp := 3, sumDm := 1 })).map (fun t => (t.st, t.log)) =
      some (.idle, [(3, .diag .se1Detected e1)]) := by decide +kernel
/-- R98's example: BYTES = [0x2a, 0xd2] at EOP. -/
theorem test_feed_eop :
    record (exec (show_ e1 lvJ) { holding [0x2a#8, 0xd2#8] with se0Count := 2#2, sumDp := 2, sumDm := -2 }) =
      some (.packet (.handshake .ack [0x2a#8, 0xd2#8])) := by decide +kernel
/-- EX-1 to EX-4. -/
theorem test_feed_contract :
    ([show_ t2 lvJ, .feed t2 nanWord (voltage false), show_ infWord lvJ, show_ nanWord lvJ, show_ 0x3e6ad7f29abcaf48#64 lvJ].map
      fun i => (out (exec i idle)).bind State.fault) =
      [none, some .nanVoltage, some .nonfiniteTimestamp, some .nonfiniteTimestamp, some .timestampRegression] := by
  decide +kernel
/-- EX-7: the fourth K of the window with ACC_BITS = 3. -/
theorem test_feed_acc_overflow :
    out (exec (show_ belowE1 lvK) { detect with cfg.accBits := some 3, sumDp := -3, sumDm := 3 }) =
      some { detect with cfg.accBits := some 3, sumDp := -3, sumDm := 3, fault := some .accOverflow } := by decide +kernel
/-- EX-8: a stuck block has no step. -/
theorem test_feed_stuck :
    out (exec (show_ t2 lvK) { idle with fault := some .nanVoltage }) = some { idle with fault := some .nanVoltage } := by
  decide
/-- R82: in exact arithmetic a window ends a whole period after the edge. -/
theorem test_feed_exact_schedule :
    (out (exec (show_ 0#64 lvK) { idle with lastT := some 0#64, cfg.timeArith := .exact })).map State.winEnd =
      some (.exact (2 ^ 1074)) := by decide +kernel

/-! ## RESET -/

/-- R162's example: RESET(FORCE_FS), also out of a fault and an attempt. -/
theorem test_reset_force_fs :
    (out (exec (.reset 2#2) { recv with fault := some .nanVoltage })).map
      (fun t => (t.st, t.speed, t.hint, t.prevLv, t.fault)) = some (.unknown, .fs, .forceFs, none, none) := by decide
theorem test_reset_reserved : out (exec (.reset 3#2) idle) = none := by decide

/-! ## The rows of LINE2 and SYNC8 -/

/-- R96's example, in RECEIVE after a raw 0: the count goes to 2 and the data bit is 1. -/
theorem test_se0_counts_and_forwards :
    (out (exec .se0 { recv with se0Count := 1#2 })).map (fun t => (t.se0Count, t.curVal, t.curN, t.prevRaw)) =
      some (2#2, 1#8, 1#4, some false) := by decide
/-- NR-5: the second SE0 window completes a third byte, 0xc0. -/
theorem test_se0_completes_byte :
    (out (exec .se0 { holding [0x2a#8, 0xd2#8] with curVal := 0x40#8, curN := 7#4, se0Count := 1#2 })).map State.bytes =
      some [0x2a#8, 0xd2#8, 0xc0#8] := by decide
/-- R104's example: in RECEIVE after a raw 0 the window (0,1) is data bit 1. -/
theorem test_diff01_data_bit :
    (out (exec .diff01 { recv with curN := 3#4 })).map (fun t => (t.curVal, t.curN)) = some (0x08#8, 4#4) := by decide
/-- LS-9: at low speed J is (0,1) and ends the packet. -/
theorem test_diff01_ends_low_speed_packet :
    record (exec .diff01 { recvLs with bytes := [0xd5#8, 0x5a#8], se0Count := 2#2 }) =
      some (.packet (.handshake .nak [0xd5#8, 0x5a#8])) := by decide
/-- LS-10: at low speed (1,0) after two SE0 is K, a data bit that clears the count. -/
theorem test_diff10_is_data_at_low_speed :
    (out (exec .diff10 { recvLs with se0Count := 2#2 })).map (fun t => (t.st, t.se0Count, t.curVal, t.curN)) =
      some (.receive, 0#2, 1#8, 1#4) := by decide
/-- LS-8: after one SE0 a J is data. -/
theorem test_diff10_after_one_se0 :
    (out (exec .diff10 { recv with se0Count := 1#2 })).map (fun t => (t.st, t.se0Count, t.curVal, t.curN)) =
      some (.receive, 0#2, 0#8, 1#4) := by decide
/-- R94's example. -/
theorem test_se1_discards :
    (out (exec .se1 { recv with sampleT := 0x3ec4f8b588e368f1#64 })).map (fun t => (t.st, t.bytes, t.log)) =
      some (.idle, [], [(3, .diag .se1Detected 0x3ec4f8b588e368f1#64)]) := by decide
/-- R97's example: the first byte is 0x2a at full speed. -/
theorem test_first_byte_acquires :
    (out (exec .diff01 { detect with curVal := 0x2a#8, curN := 7#4 })).map
      (fun t => (t.st, t.bytes, t.prevRaw, t.curN)) = some (.receive, [0x2a#8], some false, 0#4) := by decide
/-- LS-7: the first byte is 0xaa. -/
theorem test_first_byte_mismatch :
    (out (exec .diff10 { detect with curVal := 0x2a#8, curN := 7#4 })).map (fun t => (t.st, t.bytes, t.log)) =
      some (.idle, [], []) := by decide
theorem test_sync_fs : (out (exec .syncFs detect)).map State.st = some .receive ∧
    (out (exec .syncFs { detect with speed := .ls })).map State.st = some .idle := by decide
/-- R108: FIRST_POST_SYNC_BIT empties the history. -/
theorem test_sync_ls :
    (out (exec .syncLs { detect with speed := .ls, prevRaw := some true, cfg.nrziSeed := .firstPostSyncBit })).map
      (fun t => (t.st, t.prevRaw)) = some (.receive, none) ∧
    (out (exec .syncLs detect)).map State.st = some .idle := by decide

/-! ## The rows of PID8 -/

/-- PC-1, PC-2. -/
theorem test_sof :
    record (exec .sof (holding [0x2a#8, 0xa5#8, 0x23#8, 0x51#8])) =
      some (.packet (.sof 0x123#11 10#5 true [0x2a#8, 0xa5#8, 0x23#8, 0x51#8])) ∧
    record (exec .sof (holding [0x2a#8, 0xa5#8, 0x23#8, 0x59#8])) =
      some (.packet (.sof 0x123#11 11#5 false [0x2a#8, 0xa5#8, 0x23#8, 0x59#8])) := by decide +kernel
/-- PC-6, PC-7: one packet under the two variants. -/
theorem test_setup :
    record (exec .setup (holding [0x2a#8, 0x2d#8, 0x00#8, 0x10#8])) =
      some (.packet (.token .setup 0#7 0#4 2#5 false [0x2a#8, 0x2d#8, 0x00#8, 0x10#8])) ∧
    record (exec .setup { holding [0x2a#8, 0x2d#8, 0x00#8, 0x10#8] with cfg.crc5Order := .usbReflected }) =
      some (.packet (.token .setup 0#7 0#4 2#5 true [0x2a#8, 0x2d#8, 0x00#8, 0x10#8])) := by decide +kernel
/-- PC-9. -/
theorem test_in :
    record (exec .inToken (holding [0x2a#8, 0x69#8, 0x95#8, 0x9f#8])) =
      some (.packet (.token .inToken 21#7 15#4 19#5 true [0x2a#8, 0x69#8, 0x95#8, 0x9f#8])) := by decide +kernel
/-- PC-11: a byte more than the fields need. -/
theorem test_out :
    record (exec .outToken (holding [0x2a#8, 0xe1#8, 0x81#8, 0x18#8, 0x77#8])) =
      some (.packet (.token .outToken 1#7 1#4 3#5 true [0x2a#8, 0xe1#8, 0x81#8, 0x18#8, 0x77#8])) := by decide +kernel
/-- PC-12, PC-16. -/
theorem test_data0 :
    record (exec .data0 (holding [0x2a#8, 0xc3#8, 0x01#8, 0x02#8, 0x03#8, 0x9e#8, 0x9e#8])) =
      some (.packet (.data .data0 [0x01#8, 0x02#8, 0x03#8] 0x9e9e#16 true
        [0x2a#8, 0xc3#8, 0x01#8, 0x02#8, 0x03#8, 0x9e#8, 0x9e#8])) ∧
    record (exec .data0 (holding [0x2a#8, 0xc3#8, 0x12#8, 0x34#8])) =
      some (.packet (.data .data0 [] 0x3412#16 false [0x2a#8, 0xc3#8, 0x12#8, 0x34#8])) := by decide +kernel
/-- PC-14, PC-15. -/
theorem test_data1 :
    record (exec .data1 (holding [0x2a#8, 0x4b#8, 0x00#8, 0x00#8])) =
      some (.packet (.data .data1 [] 0#16 true [0x2a#8, 0x4b#8, 0x00#8, 0x00#8])) ∧
    record (exec .data1 (holding [0x2a#8, 0x4b#8, 0x00#8])) = some (.packet (.raw [0x2a#8, 0x4b#8, 0x00#8])) := by decide +kernel
/-- PC-17. -/
theorem test_ack : record (exec .ack (holding [0x2a#8, 0xd2#8])) =
    some (.packet (.handshake .ack [0x2a#8, 0xd2#8])) := by decide
/-- PC-18. -/
theorem test_nak : record (exec .nak (holding [0xd5#8, 0x5a#8])) =
    some (.packet (.handshake .nak [0xd5#8, 0x5a#8])) := by decide
/-- PC-19. -/
theorem test_stall : record (exec .stall (holding [0x2a#8, 0x1e#8, 0x99#8])) =
    some (.packet (.handshake .stall [0x2a#8, 0x1e#8, 0x99#8])) := by decide
/-- PC-20. -/
theorem test_raw : record (exec (.raw 0x00#8) (holding [0x2a#8, 0x00#8, 0x01#8, 0x02#8])) =
    some (.packet (.raw [0x2a#8, 0x00#8, 0x01#8, 0x02#8])) := by decide

/-! ## The next step after reset runs a staged row (log 16) -/

theorem test_staged_sync :
    (out (step (State.reset.withFetchWord 8 0xd5))).map (fun t => (t.st, t.bytes)) = some (.receive, [0xd5#8]) := by
  decide +kernel
theorem test_staged_pid :
    record (step (State.reset.withFetchWord 8 0x2d)) =
      some (.packet (.token .setup 0#7 0#4 0#5 false [0x2a#8, 0x2d#8, 0x00#8, 0x00#8])) := by decide +kernel

/-! ## Witnesses: states and operands that meet the hypotheses of each statement, clause by clause -/

/-- The fault that a next state holds, and whether there is a next state. -/
def faultOf (o : Host.Outcome State Fault Refusal) : Option (Option FaultCode) := (out o).map State.fault

/-- A state with a sample waiting. -/
def waiting (t : Binary64) (lv : Levels) (s : State) : State :=
  { s with inputs := [sampleInput t (voltage lv.dp) (voltage lv.dm)] }

/-- The sample of these levels is accepted. -/
def ok_ (t : Binary64) (lv : Levels) (s : State) : Bool := accepts t (voltage lv.dp) (voltage lv.dm) s

/-- An attempt before its first window closes, at low speed. -/
def detectLs : State := { detect with speed := .ls, hint := .forceLs }

theorem test_meets_DecodeInvertsEncode : (Instr.raw 0xb4#8).wf = true ∧ (Instr.reset 2#2).wf = true ∧ Instr.sof.wf = true := by
  decide
theorem test_meets_EncodeInvertsDecode :
    decode (.hint 3#2) = .ok (.reset 3#2) ∧ decode (.sync 0xd5#8) = .ok .syncLs ∧ decode (.pid 0#8) = .ok (.raw 0#8) := by
  decide
theorem test_meets_StepRunsDecodedInput :
    (waiting t2 lvJ idle).inputs = .sample (t2 ++ voltage true ++ voltage false) :: [] ∧
      ({ idle with inputs := [.reset 3#2] } : State).inputs = .reset 3#2 :: [] := by decide
theorem test_meets_StepWithoutInputDoesNothing : idle.inputs = [] := by decide
theorem test_meets_StuckUntilReset :
    let s := { recv with fault := some .accOverflow, inputs := [.reset 2#2] }
    s.fault = some .accOverflow ∧ faultOf (step s) = some none ∧
      faultOf (step (waiting t2 lvJ s)) = some (some .accOverflow) := by decide
theorem test_meets_ContractBreachOrder :
    idle.fault = none ∧ finite infWord = false ∧ finite t2 = true ∧ isNaN nanWord = true ∧ isNaN (voltage true) = false ∧
      idle.lastT = some t1 ∧ flt 0x3e6ad7f29abcaf48#64 t1 = true ∧
      ok_ belowE1 lvK { detect with cfg.accBits := some 1 } = true ∧
      faultOf (exec (show_ belowE1 lvK) { detect with cfg.accBits := some 1 }) = some (some .accOverflow) := by decide +kernel
theorem test_meets_FeedCommitsOrFaultsWhole :
    recv.fault = none ∧ faultOf (exec (show_ e1 lvSe0) recv) = some none ∧
      faultOf (exec (.feed e1 nanWord nanWord) recv) = some (some .nanVoltage) := by decide +kernel
theorem test_meets_LevelIsThresholdComparison :
    isNaN 0x3ff3333333333333#64 = false ∧ isNaN 0x3ff3333333333332#64 = false ∧ isNaN infWord = false := by decide
theorem test_meets_FeedInUnknownInfersSpeed :
    ok_ 0#64 lvSe1 State.reset = true ∧ State.reset.st = .unknown ∧
      ok_ t1 lvK { State.reset with prevLv := some lvSe0, lastT := some t1 } = true := by decide +kernel
/-- No edge; an edge counted within ACC_BITS; one past it; one not counted; each at its boundary. -/
theorem test_meets_FeedInIdleOpensAttemptOnEdge :
    ok_ t1 lvJ idle = true ∧ idle.st = .idle ∧ idle.prevLv = some lvJ ∧ lvJ = levels (voltage true) (voltage false) ∧
      lvJ ≠ levels (voltage false) (voltage false) ∧ windowEnd .binary64 .fs tEdge 1 = .ok (.bin e1) ∧
      ¬ (2 ^ (2 - 1) - 1 < 1) ∧ 2 ^ (1 - 1) - 1 < 1 ∧
      faultOf (exec (show_ tEdge lvSe0) { idle with cfg.accBits := some 2 }) = some none ∧
      faultOf (exec (show_ tEdge lvSe0) { idle with cfg.accBits := some 1 }) = some (some .accOverflow) ∧
      faultOf (exec (show_ tEdge lvSe0) { idle with cfg.accBits := some 1, cfg.edgeSampleCounted := false }) =
        some none := by decide +kernel
/-- The sums at `2^(3-1) - 1` and one past it. -/
theorem test_meets_SampleBeforeEndIsAccumulated :
    let s := { detect with cfg.accBits := some 3, sumDp := -2, sumDm := 2 }
    let u := { detect with cfg.accBits := some 3, sumDp := -3, sumDm := 3 }
    ok_ belowE1 lvK s = true ∧ inAttempt s = true ∧ s.winEnd.reached belowE1 = false ∧ ((-2 : Int) + -1).natAbs ≤ 2 ^ (3 - 1) - 1 ∧
      2 ^ (3 - 1) - 1 < ((-3 : Int) + -1).natAbs ∧ faultOf (exec (show_ belowE1 lvK) s) = some none ∧
      faultOf (exec (show_ belowE1 lvK) u) = some (some .accOverflow) := by decide +kernel
/-- The closing sample exactly at the end: the attempt goes on, ends, faults in the row, and faults in the next window. -/
theorem test_meets_ClosingSampleRunsLineRow :
    ok_ e1 lvJ detect = true ∧ inAttempt detect = true ∧ detect.winEnd.reached e1 = true ∧
      faultOf (exec .diff01 { detect with winActive := false, sampleT := e1 }) = some none ∧
      (out (exec (show_ e1 lvJ) detect)).map State.st = some .detectSync ∧
      (out (exec (show_ e1 lvJ) (voting lvSe1 detect))).map State.st = some .idle ∧
      faultOf (exec (show_ e1 lvJ) { recv with curN := 7#4, cfg.bufCap := some 1 }) = some (some .bufferOverflow) ∧
      faultOf (exec (show_ e1 lvJ) { detect with cfg.accBits := some 1 }) = some (some .accOverflow) ∧
      stop (exec (show_ e1 lvJ) { detect with speed := .none }) = some .noSpeed ∧
      stop (exec (show_ e1 lvJ) { detect with speed := .none, se0Count := 2#2 }) = some .noSpeed := by decide +kernel
theorem test_meets_SignalFaultEndsAttempt :
    let s := voting lvSe1 detect
    ok_ e1 lvJ s = true ∧ inAttempt s = true ∧ s.winEnd.reached e1 = true ∧ 0 < s.sumDp ∧ 0 < s.sumDm := by decide +kernel
/-- Sums at the boundary: 1 and 0; two bytes and one. -/
theorem test_meets_EndOfPacketEmitsAndReturns :
    let s := { holding [0x2a#8, 0xd2#8] with se0Count := 2#2, sumDp := 1, sumDm := 0 }
    let u := { recvLs with se0Count := 2#2, sumDp := 0, sumDm := 1 }
    ok_ e1 lvJ s = true ∧ inAttempt s = true ∧ s.winEnd.reached e1 = true ∧ 2 ≤ s.se0Count.toNat ∧ s.speed = .fs ∧
      ok_ e1 lvK u = true ∧ inAttempt u = true ∧ 2 ≤ u.se0Count.toNat ∧ u.speed = .ls ∧ u.bytes.length = 1 := by
  decide +kernel
theorem test_meets_UnreachableReadsStopByName :
    stop (exec (show_ t2 lvJ) { idle with st := .gotSe1 }) = some .transientState ∧
      stop (exec (show_ t2 lvJ) { idle with st := .gotEop }) = some .transientState ∧
      stop (exec (show_ t2 lvJ) { idle with prevLv := none }) = some .noBaseline ∧
      stop (exec (show_ t2 lvK) { idle with speed := .none }) = some .noSpeed ∧
      stop (exec .diff01 { recv with speed := .none, se0Count := 2#2 }) = some .noSpeed ∧
      stop (exec .syncFs { detect with speed := .none }) = some .noSpeed := by decide +kernel
theorem test_meets_JRowAfterTwoSe0EndsPacket :
    ({ recv with se0Count := 2#2 } : State).speed = .fs ∧ ({ recvLs with se0Count := 2#2 } : State).speed = .ls ∧
      2 ≤ (2#2).toNat := by decide
/-- Each row in DETECT_SYNC and in RECEIVE, with the last place before a byte is full, and a K after two SE0. -/
theorem test_meets_ForwardedWindowPlacesOneBit :
    inAttempt detect = true ∧ inAttempt recv = true ∧
      forwarded .se0 { detect with se0Count := 2#2 } = some (false, 2#2) ∧
      forwarded .diff01 { recv with se0Count := 2#2 } = some (false, 0#2) ∧
      forwarded .diff10 { recvLs with se0Count := 2#2 } = some (true, 0#2) ∧
      dataBit detect true = some true ∧ dataBit recv true = some false ∧
      (6#4).toNat < 7 ∧ (0x3f#8).toNat < 2 ^ (6#4).toNat := by decide
theorem test_meets_EighthBitAppendsByte :
    let s := { recv with curN := 7#4, curVal := 0x7f#8, cfg.bufCap := some 2 }
    s.st = .receive ∧ forwarded .diff10 s = some (true, 0#2) ∧ forwarded .diff01 s = some (false, 0#2) ∧
      forwarded .se0 s = some (false, 1#2) ∧ dataBit s true = some false ∧ s.curVal.toNat < 128 ∧
      s.cfg.bufCap ≠ some s.bytes.length := by decide
theorem test_meets_ByteIntoFullBufferFaults :
    let s := { recv with curN := 7#4, cfg.bufCap := some 1 }
    let u := { detect with curN := 7#4, cfg.bufCap := some 0 }
    inAttempt s = true ∧ forwarded .se0 s = some (false, 1#2) ∧ dataBit s false = some true ∧
      s.cfg.bufCap = some s.bytes.length ∧ inAttempt u = true ∧ dataBit u false = some false ∧
      u.cfg.bufCap = some u.bytes.length := by decide
/-- The byte is 0x2a, 0xd5 and 0x7f. -/
theorem test_meets_FirstByteRunsSyncRow :
    let s := { detect with curN := 7#4, curVal := 0x2a#8, cfg.bufCap := some 1 }
    let u := { detectLs with curN := 7#4, curVal := 0x55#8 }
    s.st = .detectSync ∧ s.bytes = [] ∧ forwarded .diff01 s = some (false, 0#2) ∧ s.curVal.toNat < 128 ∧
      s.cfg.bufCap ≠ some 0 ∧ s.speed ≠ .none ∧ decode (.sync (addBit 0x2a#8 7 false)) = .ok .syncFs ∧
      forwarded .diff10 u = some (true, 0#2) ∧ decode (.sync (addBit 0x55#8 7 true)) = .ok .syncLs ∧
      decode (.sync (addBit 0x7f#8 7 false)) = .error (.notSync 0x7f#8) := by decide
theorem test_meets_SyncRowsAcquireOrDiscard : detect.speed = .fs ∧ detectLs.speed = .ls := by decide
theorem test_meets_FirstPostSyncWindowOnlySeeds :
    let s := { recv with prevRaw := none }
    s.st = .receive ∧ s.prevRaw = none ∧ forwarded .se0 s = some (false, 1#2) ∧ forwarded .diff01 s = some (false, 0#2) ∧
      forwarded .diff10 s = some (true, 0#2) := by decide
/-- At both speeds from the last window of SYNC, which is K, and with one free place in the buffer. -/
theorem test_meets_NrziByteIsReceived :
    let s := { recv with cfg.bufCap := some 2 }
    s.st = .receive ∧ s.speed ≠ .none ∧ s.prevRaw = some (rawBit (Symbol.k.levels (s.speed == .ls))) ∧
      recvLs.prevRaw = some (rawBit (Symbol.k.levels (recvLs.speed == .ls))) ∧ s.se0Count = 0#2 ∧ s.curVal = 0#8 ∧
      s.curN = 0#4 ∧ s.cfg.bufCap ≠ some s.bytes.length := by decide
theorem test_meets_PacketRoundTrip :
    detectLs.st = .detectSync ∧ detectLs.speed ≠ .none ∧ detectLs.cfg.nrziSeed = .lastSyncBit ∧
      detectLs.cfg.bufCap = none ∧ detectLs.bytes = [] ∧ detectLs.curVal = 0#8 ∧ detectLs.curN = 0#4 ∧
      detectLs.se0Count = 0#2 ∧ [0xd2#8] ≠ [] := by decide
theorem test_meets_EndOfPacketRunsPidRow :
    (holding [0x2a#8, 0xd2#8]).bytes = 0x2a#8 :: 0xd2#8 :: [] := by decide
theorem test_meets_SofRecordFields :
    (holding [0x2a#8, 0xa5#8, 0xff#8, 0x17#8]).bytes = 0x2a#8 :: 0xa5#8 :: 0xff#8 :: 0x17#8 :: [] := by decide
theorem test_meets_TokenRecordFields :
    (holding [0x2a#8, 0xe1#8, 0x81#8, 0x18#8, 0x77#8]).bytes = 0x2a#8 :: 0xe1#8 :: 0x81#8 :: 0x18#8 :: [0x77#8] := by
  decide
/-- The shortest one: an empty payload. -/
theorem test_meets_DataRecordFields :
    (holding [0x2a#8, 0x4b#8, 0x00#8, 0x00#8]).bytes = 0x2a#8 :: 0x4b#8 :: ([] ++ [0x00#8, 0x00#8]) := by decide
theorem test_meets_HandshakeRecords : (holding [0x2a#8, 0x1e#8, 0x99#8]).bytes = 0x2a#8 :: 0x1e#8 :: [0x99#8] := by decide
theorem test_meets_RawRecord : 0xb4#8 ∉ namedPids ∧ 0x00#8 ∉ namedPids := by decide
theorem test_meets_ShortPacketIsRaw :
    Instr.sof ∈ [Instr.sof, .setup, .inToken, .outToken, .data0, .data1] ∧
      Instr.data1 ∈ [Instr.sof, .setup, .inToken, .outToken, .data0, .data1] ∧
      (holding [0x2a#8, 0x4b#8, 0x00#8]).bytes.length < 4 := by decide
theorem test_meets_ResetWritesEveryRegister : (0#2 : BitVec 2) ≠ 3#2 ∧ (1#2 : BitVec 2) ≠ 3#2 ∧ (2#2 : BitVec 2) ≠ 3#2 := by
  decide
theorem test_meets_ReservedHintIsRefused :
    exec (.reset 3#2) recv = .refused .reservedHint ∧ (out (exec (.reset 1#2) recv)).map State.hint = some .forceLs :=
  ⟨rfl, rfl⟩

/-- The invariant of an acquired attempt; the reset state's is a statement. -/
theorem test_recv_inv : recv.Inv := by
  constructor <;>
    simp [recv, detect, idle, State.reset, inAttempt, Memory.wf, Config.default, accOverflows, syncPattern, Hint.speed,
      finite, expField, tEdge]

/-- From an acquired attempt a sample that closes a window, and one that ends the packet. -/
theorem test_meets_StepKeepsInv :
    recv.Inv ∧ (out (step (waiting e1 lvSe0 recv))).map State.st = some .receive ∧
      (out (step (waiting e1 lvSe0 (voting lvSe1 recv)))).map State.st = some .idle :=
  ⟨test_recv_inv, by decide +kernel, by decide +kernel⟩
theorem test_meets_StepAnswersUnlessReservedHint : recv.Inv := test_recv_inv
theorem test_meets_SpeedIsFixedWithinRun :
    (out (step (waiting t1 lvK State.reset))).map State.speed = some .ls ∧
      (∀ h rest, (waiting t1 lvK State.reset).inputs ≠ .reset h :: rest) := by
  refine ⟨by decide +kernel, ?_⟩
  intro h rest; simp [waiting, sampleInput]
theorem test_meets_OnlyResetWritesHint :
    (out (step { recv with inputs := [.reset 1#2] })).map State.hint = some .forceLs ∧
      (out (step (waiting belowE1 lvK recv))).map State.hint = some .forceFs := by decide +kernel
theorem test_meets_FeedNeverReadsHint : (out (exec (show_ e1 lvJ) recv)).isSome = true := by decide +kernel
/-- In UNKNOWN, in IDLE without an edge, and in IDLE with one. -/
theorem test_meets_WindowRegistersUnreadOutsideAttempt :
    State.reset.st = .unknown ∧ (out (exec (show_ t1 lvJ) State.reset)).map State.st = some .unknown ∧ idle.st = .idle ∧
      (out (exec (show_ t2 lvJ) idle)).map State.st = some .idle ∧
      (out (exec (show_ t2 lvK) idle)).map State.st = some .detectSync := by decide +kernel
/-- A record, none, and a fault. -/
theorem test_meets_AtMostOneRecordPerFeed :
    (out (step (waiting e1 lvSe0 (voting lvSe1 recv)))).map (fun t => t.log.length) = some 1 ∧
      (out (step (waiting e1 lvSe0 recv))).map (fun t => t.log.length) = some 0 ∧
      faultOf (step { recv with inputs := [sampleInput nanWord 0#64 0#64] }) = some (some .nonfiniteTimestamp) := by
  decide +kernel
theorem test_meets_RecordsExactlyOnEopOrSe1 :
    (out (exec (show_ e1 lvJ) { holding [0x2a#8, 0xd2#8] with se0Count := 2#2, sumDp := 1, sumDm := 0 })).map State.log =
        some [(3, .packet (.handshake .ack [0x2a#8, 0xd2#8]))] ∧
      (out (exec (show_ e1 lvJ) (voting lvSe1 recv))).map State.log = some [(3, .diag .se1Detected e1)] := by decide +kernel
theorem test_meets_StrobesOfAStep :
    (out (step (waiting e1 lvSe0 (voting lvSe1 recv)))).map (diagStrobe recv) = some true ∧
      (out (step (waiting e1 lvSe0 { recv with fault := some .nanVoltage }))).map faultIndication = some true := by
  decide +kernel
theorem test_meets_StateMovesOnlyAsTabled :
    (out (step (waiting tEdge lvK idle))).map State.st = some .detectSync ∧
      (∀ h rest, (waiting tEdge lvK idle).inputs ≠ .reset h :: rest) := by
  refine ⟨by decide +kernel, ?_⟩
  intro h rest; simp [waiting, sampleInput]
/-- Kept, grown, and emptied. -/
theorem test_meets_BufferOnlyGrowsOrEmpties :
    (out (step (waiting belowE1 lvK recv))).map State.bytes = some [0x2a#8] ∧
      (out (step (waiting e1 lvK { recv with curN := 7#4 }))).map State.bytes = some [0x2a#8, 0x80#8] ∧
      (out (step (waiting e1 lvK (voting lvSe1 recv)))).map State.bytes = some [] := by decide +kernel
theorem test_meets_VoteOfAWindow :
    [lvK, lvJ].map Levels.dp = [lvSe0, lvSe1].map Levels.dp ∧ vote (windowSums [lvSe1]).1 = true ∧
      vote (windowSums [lvSe1]).2 = true := by decide
theorem test_meets_WindowVotesByMajority : detect.cfg.accBits = none := by decide
theorem test_meets_WindowSchedule : windowEnd .binary64 .fs tEdge 2 = .ok (.bin e2) ∧ Speed.fs ≠ .none := by decide +kernel
/-- An ordinary pair of operands, and a tie: 1 + 2^-53 lies between 1 and the next value, and 1 is even. -/
theorem test_meets_FaddRoundsToNearestEven :
    finite tEdge = true ∧ finite periodFs = true ∧ finite (fadd tEdge periodFs) = true ∧
      fadd 0x3ff0000000000000#64 0x3ca0000000000000#64 = 0x3ff0000000000000#64 ∧ finite 0x3ff0000000000001#64 = true := by
  decide +kernel
theorem test_meets_FlippedCrc16BitFailsCheck :
    dataRec .data0 [0x2a#8, 0xc3#8, 0x01#8, 0x02#8, 0x03#8, 0x9e#8, 0x9e#8] =
      some (.data .data0 [0x01#8, 0x02#8, 0x03#8] 0x9e9e#16 true [0x2a#8, 0xc3#8, 0x01#8, 0x02#8, 0x03#8, 0x9e#8, 0x9e#8]) ∧
      (7 : Nat) < 8 := by decide +kernel

end Sys2Proof.Tests
end

section
/-! PROOFS. The packet buffer between steps (R36): what each operation of a FEED does to `S.BYTES`, from PACK up to the step. -/

namespace Sys2Proof.Machine

/-- What a line-symbol operation or a window step that starts with the buffer `before` may do to it. -/
inductive BufferMove (before : List Byte) (t : State) : Prop
  | kept (bytes : t.bytes = before)
  | appended (b : Byte) (bytes : t.bytes = before ++ [b])
  | emptied (bytes : t.bytes = []) (st : t.st = .idle)

/-- Only `S.BYTES` and `S.ST` of the state afterwards matter. -/
theorem BufferMove.congr {before : List Byte} {t u : State} (h : BufferMove before t)
    (hbytes : u.bytes = t.bytes) (hst : u.st = t.st) : BufferMove before u := by
  cases h with
  | kept h => exact .kept (hbytes.trans h)
  | appended b h => exact .appended b (hbytes.trans h)
  | emptied h hi => exact .emptied (hbytes.trans h) (hst.trans hi)

theorem discard_bufferMove (before : List Byte) (s : State) : BufferMove before (discard s) := .emptied rfl rfl

/-- OPEN_ATTEMPT has emptied the buffer for a new attempt, from IDLE (R91). -/
structure AttemptOpened (s t : State) : Prop where
  bytes : t.bytes = []
  from_idle : s.st = .idle
  st : t.st = .detectSync

theorem accumulate_bytes_st {lv : Levels} {s t : State} (h : accumulate lv s = .ok t) :
    t.bytes = s.bytes ∧ t.st = s.st := by
  obtain ⟨-, -, rfl⟩ := accumulate_ok h
  exact ⟨rfl, rfl⟩

theorem syncCheck_bytes {b : Byte} {s t : State} {cont : Bool} (h : syncCheck b s = .ok (t, cont)) :
    t.bytes = s.bytes ∨ t = discard s := by
  rcases syncCheck_cases b s with ⟨-, he⟩ | ⟨-, he⟩ | ⟨-, -, he⟩ <;>
    rw [he] at h <;> cases h
  · exact .inl rfl
  · exact .inr rfl

theorem pack_bufferMove {bit : Bool} {s t : State} {cont : Bool} (h : pack bit s = .ok (t, cont)) :
    BufferMove s.bytes t := by
  rcases pack_cases bit s with ⟨-, he⟩ | ⟨-, -, he⟩ | ⟨-, -, -, he⟩ | ⟨-, -, -, he⟩ <;> rw [he] at h
  · cases h; exact .kept rfl
  · cases h
  · cases h; exact .appended _ rfl
  · rcases syncCheck_bytes h with hb | rfl
    · exact .appended _ hb
    · exact discard_bufferMove _ _

theorem forward_bufferMove {lv : Levels} {s t : State} {cont : Bool} (h : forward lv s = .ok (t, cont)) :
    BufferMove s.bytes t := by
  rcases forward_cases lv s with ⟨-, he⟩ | ⟨-, -, he⟩ | ⟨-, p, -, he⟩ <;> rw [he] at h
  · exact (pack_bufferMove h :)
  · cases h; exact .kept rfl
  · exact (pack_bufferMove h :)

/-- SE1 and an EOP end in DISCARD; every other window is forwarded. -/
theorem symbol_bufferMove {lv : Levels} {tm : Binary64} {s t : State} {cont : Bool}
    (h : symbol lv tm s = .ok (t, cont)) : BufferMove s.bytes t := by
  rcases symbol_cases lv tm s with ⟨-, he⟩ | ⟨-, he⟩ | ⟨-, he⟩ <;> rw [he] at h
  · cases h; exact discard_bufferMove _ _
  · rcases symDiff_cases lv s with ⟨-, -, hd⟩ | ⟨-, -, hd⟩ | ⟨-, hd⟩ <;> rw [hd] at h
    · cases h
    · cases h; exact discard_bufferMove _ _
    · exact (forward_bufferMove h :)
  · unfold symSe0 at h
    exact (forward_bufferMove h :)

theorem windowStep_bufferMove {tm : Binary64} {lv : Levels} {s t : State} (h : windowStep tm lv s = .ok t) :
    BufferMove s.bytes t := by
  rcases windowStep_cases tm lv s with ⟨-, he⟩ | ⟨-, ⟨e, -, he⟩ | ⟨u, hu, he⟩ | ⟨u, hu, ⟨e, -, he⟩ | ⟨e, -, he⟩⟩⟩ <;>
    rw [he] at h
  · exact .kept (accumulate_bytes_st h).1
  · cases h
  · cases h; exact (symbol_bufferMove hu :)
  · cases h
  · obtain ⟨hbytes, hst⟩ := accumulate_bytes_st h
    exact (symbol_bufferMove hu).congr hbytes hst

theorem openAttempt_bytes_st {tm : Binary64} {lv : Levels} {s t : State} (h : openAttempt tm lv s = .ok t) :
    t.bytes = [] ∧ t.st = .detectSync := by
  rcases openAttempt_cases tm lv s with ⟨-, he⟩ | ⟨e, -, he⟩ <;> rw [he] at h
  · cases h
  · split at h
    · exact accumulate_bytes_st h
    · cases h; exact ⟨rfl, rfl⟩

theorem speedStep_bytes (lv : Levels) (s : State) : (speedStep lv s).bytes = s.bytes := rfl

/-- Only a state of IDLE opens an attempt; otherwise the buffer moves as in a window step. -/
theorem stateStep_bufferMove {tm : Binary64} {lv : Levels} {s t : State} (h : stateStep tm lv s = .ok t) :
    BufferMove s.bytes t ∨ AttemptOpened s t := by
  have attempt (hst : s.st = .detectSync ∨ s.st = .receive) : BufferMove s.bytes t :=
    windowStep_bufferMove (stateStep_attempt tm lv hst ▸ h)
  have transient (hst : s.st = .gotSe1 ∨ s.st = .gotEop) : False := by
    rw [stateStep_transient tm lv hst] at h; cases h
  cases hst : s.st with
  | unknown =>
    rw [stateStep_unknown tm lv hst] at h
    cases h
    exact .inl (.kept (speedStep_bytes lv s))
  | idle =>
    rw [stateStep_idle tm lv hst] at h
    rcases idleStep_cases tm lv s with ⟨-, he⟩ | ⟨-, he⟩ | ⟨-, -, he⟩ <;> rw [he] at h
    · cases h
    · cases h; exact .inl (.kept rfl)
    · obtain ⟨hbytes, hdetect⟩ := openAttempt_bytes_st h
      exact .inr ⟨hbytes, hst, hdetect⟩
  | detectSync => exact .inl (attempt (.inl hst))
  | receive => exact .inl (attempt (.inr hst))
  | gotSe1 => exact (transient (.inl hst)).elim
  | gotEop => exact (transient (.inr hst)).elim

theorem feed_bufferMove {tm vdp vdm : Binary64} {s t : State} (h : feed tm vdp vdm s = .ok t) :
    BufferMove s.bytes t ∨ AttemptOpened s t := by
  rcases feed_cases tm vdp vdm s with ⟨c, -, he⟩ | ⟨-, ⟨e, -, he⟩ | ⟨u, hu, he⟩⟩ <;> rw [he] at h
  · cases h
  · cases h
  · cases h
    rcases stateStep_bufferMove hu with hm | ⟨hbytes, hidle, hdetect⟩
    · exact .inl (hm.congr rfl rfl)
    · exact .inr ⟨hbytes, hidle, hdetect⟩

/-- A stuck block and a fault entry keep the buffer. -/
theorem execFeed_bufferMove {tm vdp vdm : Binary64} {s t : State} (h : execFeed tm vdp vdm s = .next t) :
    BufferMove s.bytes t ∨ AttemptOpened s t := by
  unfold execFeed at h
  split at h
  · cases h; exact .inl (.kept rfl)
  · rcases finish_next h with hf | ⟨c, -, rfl⟩
    · exact feed_bufferMove hf
    · exact .inl (.kept rfl)

theorem execReset_next {c : BitVec 2} {s t : State} (h : execReset c s = .next t) : ∃ hint, t = resetState hint s := by
  unfold execReset at h
  split at h
  · cases h; exact ⟨_, rfl⟩
  · cases h

/-- A step with a pending sample that answers a next state ran FEED, and only the index has moved since. -/
theorem step_sample_next {s t : State} {w : BitVec 192} {rest : List Input} (hi : s.inputs = .sample w :: rest)
    (h : step s = .next t) :
    ∃ u, exec (decodeSample w) { s with inputs := rest } = .next u ∧ t = { u with feedIndex := u.feedIndex + 1 } := by
  rw [step_sample hi] at h
  split at h
  case h_1 u hu => cases h; exact ⟨u, hu, rfl⟩
  all_goals cases h

/-- Settles O52: by the pending input, a FEED moves the buffer as each of its operations does, and a RESET empties it. -/
theorem bufferOnlyGrowsOrEmpties : Obligations.BufferOnlyGrowsOrEmpties := by
  intro s t h
  match hi : s.inputs with
  | [] =>
    rw [step_empty hi] at h
    cases h
    exact .inl rfl
  | .sample w :: rest =>
    obtain ⟨u, hu, rfl⟩ := step_sample_next hi h
    rcases execFeed_bufferMove hu with (hb | ⟨b, hb⟩ | ⟨hb, hidle⟩) | ⟨hb, hidle, hdetect⟩
    · exact .inl hb
    · exact .inr (.inl ⟨b, hb⟩)
    · exact .inr (.inr ⟨hb, .inl hidle⟩)
    · exact .inr (.inr ⟨hb, .inr (.inl ⟨hidle, hdetect⟩)⟩)
  | .reset c :: rest =>
    rw [step_reset hi] at h
    obtain ⟨hint, rfl⟩ := execReset_next h
    exact .inr (.inr ⟨rfl, .inr (.inr ⟨c, rest, rfl⟩)⟩)

end Sys2Proof.Machine
end

section
/-! PROOFS. The hint codes of RESET (R49): three hints and one reserved code, and what RESET answers on each. -/

namespace Sys2Proof.Machine

@[simp] theorem hintOfCode_code (hint : Hint) : hintOfCode hint.code = some hint := by
  cases hint <;> rfl

@[simp] theorem hintOfCode_reserved : hintOfCode 3#2 = none := rfl

/-- The reserved code is the only one that no hint has. -/
theorem hintCode_cases (c : BitVec 2) : c = 3#2 ∨ ∃ hint : Hint, c = hint.code := by
  have codes : ∀ c : BitVec 2, c = 0#2 ∨ c = 1#2 ∨ c = 2#2 ∨ c = 3#2 := by decide
  rcases codes c with rfl | rfl | rfl | rfl
  · exact .inr ⟨.auto, rfl⟩
  · exact .inr ⟨.forceLs, rfl⟩
  · exact .inr ⟨.forceFs, rfl⟩
  · exact .inl rfl

theorem exec_reset_code (hint : Hint) (s : State) : exec (.reset hint.code) s = .next (resetState hint s) := by
  simp [exec, execReset]

theorem exec_reset_reserved (s : State) : exec (.reset 3#2) s = .refused .reservedHint := by
  simp [exec, execReset]

/-- Settles O40: a code is the reserved one, which is refused, or a hint's own, which is answered with that hint in HINT. -/
theorem reservedHintIsRefused : Obligations.ReservedHintIsRefused := by
  refine ⟨rfl, rfl, rfl, fun s => ⟨exec_reset_reserved s, fun c r h => ?_, fun c t h => ?_⟩⟩ <;>
    obtain rfl | ⟨hint, rfl⟩ := hintCode_cases c
  · rfl
  · rw [exec_reset_code] at h; cases h
  · rw [exec_reset_reserved] at h; cases h
  · rw [exec_reset_code] at h; cases h; rfl

end Sys2Proof.Machine
end

section
/-! PROOFS. The level comparator (R65, R66), what FEED answers on an accepted sample (R87 to R89), and the speed inferencer
(R67, R68, R70). -/

namespace Sys2Proof.Machine

theorem thresh_not_nan : isNaN thresh = false := by decide

/-- R65 compares by `flt`, which is the order of the real values where neither operand is a NaN. -/
theorem level_iff {v : Binary64} (hv : isNaN v = false) : level v = true ↔ scaled thresh ≤ scaled v := by
  simp [level, flt, hv, thresh_not_nan]

/-- Settles O11: each lane is the comparator's answer on that lane's own voltage. -/
theorem levelIsThresholdComparison : Obligations.LevelIsThresholdComparison :=
  fun _ _ hdp hdm => ⟨level_iff hdp, level_iff hdm⟩

/-- The contract is kept exactly where none of its three checks fails (R88). -/
theorem contractBreach_eq_none_iff {t vdp vdm : Binary64} {lastT : Option Binary64} :
    contractBreach t vdp vdm lastT = none ↔
      finite t = true ∧ isNaN vdp = false ∧ isNaN vdm = false ∧ lastT.any (flt t ·) = false := by
  simp [contractBreach, ite_eq_iff, and_assoc]

/-- An accepted sample meets a block that is not stuck, and keeps the contract. -/
theorem accepts_iff {t vdp vdm : Binary64} {s : State} :
    accepts t vdp vdm s = true ↔ s.fault = none ∧ contractBreach t vdp vdm s.lastT = none := by
  simp only [accepts, contractBreach_eq_none_iff, Bool.and_eq_true, Bool.not_eq_true', Option.isNone_iff_eq_none,
    and_assoc]

/-- FEED on an accepted sample is the action of the state it starts in, and the commit. -/
theorem exec_feed_accepted {t vdp vdm : Binary64} {s : State} (h : accepts t vdp vdm s = true) :
    exec (.feed t vdp vdm) s =
      finish s ((stateStep t (levels vdp vdm) { s with sampleT := t }).map (feedCommit t (levels vdp vdm))) := by
  obtain ⟨hfault, hc⟩ := accepts_iff.mp h
  have run : exec (.feed t vdp vdm) s = finish s (feed t vdp vdm s) := by simp [exec, execFeed, hfault]
  rcases feed_cases t vdp vdm s with ⟨c, hbreach, -⟩ | ⟨-, ⟨e, hs, hf⟩ | ⟨u, hs, hf⟩⟩
  · rw [hc] at hbreach; cases hbreach
  all_goals rw [run, hf, hs]; rfl

/-- Settles O12: SPEED_STEP cannot stop, so FEED commits what it leaves, whether it moves to IDLE or stays in UNKNOWN. -/
theorem feedInUnknownInfersSpeed : Obligations.FeedInUnknownInfersSpeed := by
  intro s t vdp vdm h hst
  refine ⟨t, ?_⟩
  rw [exec_feed_accepted h, stateStep_unknown (s := { s with sampleT := t }) t _ hst, ← hst]
  rfl

end Sys2Proof.Machine
end

section
/-! PROOFS. The sums of a window: ACCUMULATE and its ACC_BITS limit (R73, R74), and the vote of the two lanes (R75, R76). -/

namespace Sys2Proof.Machine

/-- A sum passes the limit only where ACC_BITS is finite (R74). -/
theorem accOverflows_iff {accBits : Option Nat} {sum : Int} :
    accOverflows accBits sum = true ↔ ∃ n, accBits = some n ∧ 2 ^ (n - 1) - 1 < sum.natAbs := by
  cases accBits <;> simp [accOverflows]

theorem accOverflows_eq_false_iff {accBits : Option Nat} {sum : Int} :
    accOverflows accBits sum = false ↔ ∀ n, accBits = some n → sum.natAbs ≤ 2 ^ (n - 1) - 1 := by
  cases accBits <;> simp [accOverflows]

theorem accumulate_within {lv : Levels} {s : State}
    (hdp : accOverflows s.cfg.accBits (s.sumDp + weight lv.dp) = false)
    (hdm : accOverflows s.cfg.accBits (s.sumDm + weight lv.dm) = false) :
    accumulate lv s = .ok { s with sumDp := s.sumDp + weight lv.dp, sumDm := s.sumDm + weight lv.dm } := by
  rcases accumulate_cases lv s with ⟨-, -, h⟩ | ⟨h, -⟩
  · exact h
  · simp [hdp, hdm] at h

theorem accumulate_past {lv : Levels} {s : State}
    (h : accOverflows s.cfg.accBits (s.sumDp + weight lv.dp) = true ∨
      accOverflows s.cfg.accBits (s.sumDm + weight lv.dm) = true) :
    accumulate lv s = .error (.raise .accOverflow) := by
  rcases accumulate_cases lv s with ⟨hdp, hdm, -⟩ | ⟨-, herr⟩
  · simp [hdp, hdm] at h
  · exact herr

theorem inAttempt_iff {s : State} : inAttempt s = true ↔ s.st = .detectSync ∨ s.st = .receive := by
  simp [inAttempt]

theorem windowStep_before_end {t : Binary64} {s : State} (lv : Levels) (h : s.winEnd.reached t = false) :
    windowStep t lv s = accumulate lv s := by
  rcases windowStep_cases t lv s with ⟨-, hw⟩ | ⟨hr, -⟩
  · exact hw
  · simp [h] at hr

/-- Before the end of its window an accepted sample is only accumulated (R79). -/
theorem exec_feed_before_end {s : State} {t vdp vdm : Binary64} (h : accepts t vdp vdm s = true)
    (hin : inAttempt s = true) (hend : s.winEnd.reached t = false) :
    exec (.feed t vdp vdm) s =
      finish s ((accumulate (levels vdp vdm) { s with sampleT := t }).map (feedCommit t (levels vdp vdm))) := by
  rw [exec_feed_accepted h, stateStep_attempt (s := { s with sampleT := t }) t _ (inAttempt_iff.mp hin),
    windowStep_before_end (s := { s with sampleT := t }) _ hend]

/-- Settles O14: the FEED is ACCUMULATE and the commit, and ACCUMULATE compares each new sum with the limit. -/
theorem sampleBeforeEndIsAccumulated : Obligations.SampleBeforeEndIsAccumulated := by
  intro s t vdp vdm h hin hend lv p m
  rw [exec_feed_before_end h hin hend]
  constructor
  · intro hle
    have hdp : accOverflows s.cfg.accBits p = false := accOverflows_eq_false_iff.mpr fun n hn => (hle n hn).1
    have hdm : accOverflows s.cfg.accBits m = false := accOverflows_eq_false_iff.mpr fun n hn => (hle n hn).2
    rw [accumulate_within (s := { s with sampleT := t }) hdp hdm]
    exact ⟨t, rfl⟩
  · intro n hn hlt
    have past : accOverflows s.cfg.accBits p = true ∨ accOverflows s.cfg.accBits m = true :=
      hlt.imp (fun hp => accOverflows_iff.mpr ⟨n, hn, hp⟩) (fun hm => accOverflows_iff.mpr ⟨n, hn, hm⟩)
    rw [accumulate_past (s := { s with sampleT := t }) past]
    rfl

/-- The sum of one lane over the levels it received. -/
def laneSum (lane : List Bool) : Int := (lane.map weight).sum

@[simp] theorem laneSum_nil : laneSum [] = 0 := rfl

@[simp] theorem laneSum_cons (b : Bool) (lane : List Bool) : laneSum (b :: lane) = weight b + laneSum lane :=
  List.sum_cons

/-- Samples added to any two sums add each lane's own sum. -/
theorem foldl_weight_eq_add_laneSum (a : List Levels) (p : Int × Int) :
    a.foldl (fun p lv => (p.1 + weight lv.dp, p.2 + weight lv.dm)) p =
      (p.1 + laneSum (a.map Levels.dp), p.2 + laneSum (a.map Levels.dm)) := by
  induction a generalizing p with
  | nil => simp
  | cons lv a ih => simp [ih, add_assoc]

theorem windowSums_eq_laneSum (a : List Levels) :
    windowSums a = (laneSum (a.map Levels.dp), laneSum (a.map Levels.dm)) := by
  simp [windowSums, foldl_weight_eq_add_laneSum]

@[simp] theorem vote_iff {sum : Int} : vote sum = true ↔ 0 < sum := decide_eq_true_iff

/-- Only an SE1 sample raises both sums; every other one adds at most 0 to the two together. -/
theorem weight_add_weight_nonpos {lv : Levels} (h : lv ≠ ⟨true, true⟩) : weight lv.dp + weight lv.dm ≤ 0 := by
  obtain ⟨dp, dm⟩ := lv
  cases dp <;> cases dm
  case true.true => exact absurd rfl h
  all_goals decide

theorem laneSums_nonpos_without_se1 {a : List Levels} (h : ⟨true, true⟩ ∉ a) :
    laneSum (a.map Levels.dp) + laneSum (a.map Levels.dm) ≤ 0 := by
  induction a with
  | nil => simp
  | cons lv a ih =>
    obtain ⟨hlv, ha⟩ := not_or.mp (mt List.mem_cons.mpr h)
    have head := weight_add_weight_nonpos (Ne.symm hlv)
    have tail := ih ha
    simp only [List.map_cons, laneSum_cons]
    omega

/-- R76: two positive sums have a positive total, which a window without an SE1 sample has not. -/
theorem se1_mem_of_vote_se1 {a : List Levels} (hdp : vote (windowSums a).1 = true)
    (hdm : vote (windowSums a).2 = true) : ⟨true, true⟩ ∈ a := by
  by_contra hmem
  have total := laneSums_nonpos_without_se1 hmem
  simp only [windowSums_eq_laneSum, vote_iff] at hdp hdm
  omega

/-- Settles O53: each lane's sum is of its own levels, an SE1 vote needs an SE1 sample, and the windows shown evaluate. -/
theorem voteOfAWindow : Obligations.VoteOfAWindow := by
  refine ⟨fun a b h => ?_, fun a b h => ?_, by decide, by decide, fun a h => ?_, by decide, by decide, by decide,
    by decide, by decide⟩
  · simp [windowSums_eq_laneSum, h]
  · simp [windowSums_eq_laneSum, h]
  · obtain ⟨hdp, hdm⟩ := Levels.mk.inj h
    exact se1_mem_of_vote_se1 hdp hdm

end Sys2Proof.Machine
end

section
/-! PROOFS. What a FEED leaves unchanged (R89, R148), the edge in IDLE that opens an attempt (R90, R91), and the two ends of
an attempt: SE1 (R94) and the end of packet (R95, R98). -/

namespace Sys2Proof.Machine

/-! ## What no subroutine of a FEED writes -/

/-- An operation that started in `s'` keeps the registers of `s` too, where `s'` differs from `s` only outside them. -/
theorem Kept.from_update {s s' t : State} (h : Kept s' t) (hs : Kept s s' := by constructor <;> rfl) : Kept s t :=
  hs.trans h

theorem syncCheck_kept {b : Byte} {s t : State} {cont : Bool} (h : syncCheck b s = .ok (t, cont)) : Kept s t := by
  rcases syncCheck_cases b s with ⟨-, he⟩ | ⟨-, he⟩ | ⟨-, -, he⟩ <;> rw [he] at h <;> cases h
  · constructor <;> rfl
  · exact discard_kept s

theorem pack_kept {bit : Bool} {s t : State} {cont : Bool} (h : pack bit s = .ok (t, cont)) : Kept s t := by
  rcases pack_cases bit s with ⟨-, he⟩ | ⟨-, -, he⟩ | ⟨-, -, -, he⟩ | ⟨-, -, -, he⟩ <;> rw [he] at h
  · cases h; constructor <;> rfl
  · cases h
  · cases h; constructor <;> rfl
  · exact (syncCheck_kept h).from_update

theorem forward_kept {lv : Levels} {s t : State} {cont : Bool} (h : forward lv s = .ok (t, cont)) : Kept s t := by
  rcases forward_cases lv s with ⟨-, he⟩ | ⟨-, -, he⟩ | ⟨-, p, -, he⟩ <;> rw [he] at h
  · exact (pack_kept h).from_update
  · cases h; constructor <;> rfl
  · exact (pack_kept h).from_update

theorem gotEopStep_kept (s : State) : Kept s (gotEopStep s) := by
  rw [gotEopStep_eq]; constructor <;> rfl

theorem symDiff_kept {lv : Levels} {s t : State} {cont : Bool} (h : symDiff lv s = .ok (t, cont)) : Kept s t := by
  rcases symDiff_cases lv s with ⟨-, -, he⟩ | ⟨-, -, he⟩ | ⟨-, he⟩ <;> rw [he] at h
  · cases h
  · cases h; exact (gotEopStep_kept _).from_update
  · exact (forward_kept h).from_update

theorem symbol_kept {lv : Levels} {tm : Binary64} {s t : State} {cont : Bool}
    (h : symbol lv tm s = .ok (t, cont)) : Kept s t := by
  rcases symbol_cases lv tm s with ⟨-, he⟩ | ⟨-, he⟩ | ⟨-, he⟩ <;> rw [he] at h
  · cases h; constructor <;> rfl
  · exact symDiff_kept h
  · exact (forward_kept h).from_update

/-- The fields that no action of R87 writes, whatever the state the FEED starts in. -/
structure ActionKept (s t : State) : Prop where
  hint : t.hint = s.hint
  prevLv : t.prevLv = s.prevLv
  lastT : t.lastT = s.lastT
  fault : t.fault = s.fault
  cfg : t.cfg = s.cfg
  inputs : t.inputs = s.inputs
  feedIndex : t.feedIndex = s.feedIndex
  sampleT : t.sampleT = s.sampleT

theorem ActionKept.trans {a b c : State} (h : ActionKept a b) (h' : ActionKept b c) : ActionKept a c :=
  ⟨h'.hint.trans h.hint, h'.prevLv.trans h.prevLv, h'.lastT.trans h.lastT, h'.fault.trans h.fault,
   h'.cfg.trans h.cfg, h'.inputs.trans h.inputs, h'.feedIndex.trans h.feedIndex, h'.sampleT.trans h.sampleT⟩

theorem Kept.action {s t : State} (h : Kept s t) : ActionKept s t :=
  ⟨h.hint, h.prevLv, h.lastT, h.fault, h.cfg, h.inputs, h.feedIndex, h.sampleT⟩

theorem openWindow_actionKept (e : Time) (s : State) : ActionKept s (openWindow e s) := by constructor <;> rfl

theorem accumulate_actionKept {lv : Levels} {s t : State} (h : accumulate lv s = .ok t) : ActionKept s t := by
  obtain ⟨-, -, rfl⟩ := accumulate_ok h
  constructor <;> rfl

theorem openAttempt_actionKept {tm : Binary64} {lv : Levels} {s t : State} (h : openAttempt tm lv s = .ok t) :
    ActionKept s t := by
  rcases openAttempt_cases tm lv s with ⟨-, he⟩ | ⟨e, -, he⟩ <;> rw [he] at h
  · cases h
  · split at h
    · exact .trans (by constructor <;> rfl) (accumulate_actionKept h)
    · cases h; constructor <;> rfl

theorem windowStep_actionKept {tm : Binary64} {lv : Levels} {s t : State} (h : windowStep tm lv s = .ok t) :
    ActionKept s t := by
  rcases windowStep_cases tm lv s with ⟨-, he⟩ | ⟨-, ⟨e, -, he⟩ | ⟨u, hu, he⟩ | ⟨u, hu, ⟨e, -, he⟩ | ⟨e, -, he⟩⟩⟩ <;>
    rw [he] at h
  · exact accumulate_actionKept h
  · cases h
  · cases h; exact (symbol_kept hu).from_update.action
  · cases h
  · exact (symbol_kept hu).from_update.action.trans ((openWindow_actionKept e u).trans (accumulate_actionKept h))

theorem idleStep_actionKept {tm : Binary64} {lv : Levels} {s t : State} (h : idleStep tm lv s = .ok t) :
    ActionKept s t := by
  rcases idleStep_cases tm lv s with ⟨-, he⟩ | ⟨-, he⟩ | ⟨-, -, he⟩ <;> rw [he] at h
  · cases h
  · cases h; constructor <;> rfl
  · exact openAttempt_actionKept h

theorem stateStep_actionKept {tm : Binary64} {lv : Levels} {s t : State} (h : stateStep tm lv s = .ok t) :
    ActionKept s t := by
  cases hst : s.st with
  | unknown => rw [stateStep_unknown tm lv hst] at h; cases h; constructor <;> rfl
  | idle => exact idleStep_actionKept (stateStep_idle tm lv hst ▸ h)
  | detectSync => exact windowStep_actionKept (stateStep_attempt tm lv (.inl hst) ▸ h)
  | receive => exact windowStep_actionKept (stateStep_attempt tm lv (.inr hst) ▸ h)
  | gotSe1 => rw [stateStep_transient tm lv (.inl hst)] at h; cases h
  | gotEop => rw [stateStep_transient tm lv (.inr hst)] at h; cases h

theorem exec_feed_unstuck {s : State} (t vdp vdm : Binary64) (h : s.fault = none) :
    exec (.feed t vdp vdm) s = finish s (feed t vdp vdm s) := by
  simp [exec, execFeed, h]

/-- Settles O10: what FEED answers is the commit on top of an action that writes no FAULT, or the fault entry. -/
theorem feedCommitsOrFaultsWhole : Obligations.FeedCommitsOrFaultsWhole := by
  intro s u t vdp vdm hfault h
  rw [exec_feed_unstuck t vdp vdm hfault] at h
  rcases finish_next h with hok | ⟨c, -, rfl⟩
  · rcases feed_cases t vdp vdm s with ⟨c, -, hf⟩ | ⟨-, ⟨e, -, hf⟩ | ⟨v, hv, hf⟩⟩ <;> rw [hf] at hok <;> cases hok
    exact .inl ⟨(stateStep_actionKept hv).fault.trans hfault, rfl, rfl⟩
  · exact .inr ⟨c, rfl⟩

/-! ## The edge in IDLE -/

theorem idleStep_same {tm : Binary64} {lv : Levels} {s : State} (h : s.prevLv = some lv) :
    idleStep tm lv s = .ok s := by
  simp [idleStep, h]

theorem idleStep_edge {tm : Binary64} {lv p : Levels} {s : State} (h : s.prevLv = some p) (hne : p ≠ lv) :
    idleStep tm lv s = openAttempt tm lv s := by
  simp [idleStep, h, hne.symm]

/-- The state of a new attempt whose first window closes at `e`, before its edge sample is counted (R91). -/
def attemptAt (e : Time) (s : State) : State := openWindow e { s with
  st := .detectSync, bufActive := true, bytes := [], curVal := 0#8, curN := 0#4, prevRaw := none, se0Count := 0#2 }

theorem openAttempt_at {tm : Binary64} {lv : Levels} {s : State} {e : Time}
    (he : windowEnd s.cfg.timeArith s.speed tm 1 = .ok e) :
    openAttempt tm lv s = if s.cfg.edgeSampleCounted then accumulate lv (attemptAt e s) else .ok (attemptAt e s) := by
  have hend : (Time.ofSample s.cfg.timeArith tm).addPeriod s.speed = .ok e := he
  rcases openAttempt_cases tm lv s with ⟨hs, -⟩ | ⟨e', he', hopen⟩
  · rw [hs] at hend; cases hend
  · cases hend.symm.trans he'
    rw [hopen]
    split <;> rfl

@[simp] theorem natAbs_weight (b : Bool) : (weight b).natAbs = 1 := by cases b <;> rfl

/-- One sample alone passes the limit or not, whatever its level (R74). -/
theorem accOverflows_weight (accBits : Option Nat) (b : Bool) :
    accOverflows accBits (weight b) = accOverflows accBits 1 := by
  cases accBits <;> simp [accOverflows]

/-- The first sample of a window is alone in its sums. -/
theorem accumulate_first {lv : Levels} {s : State} (hdp : s.sumDp = 0) (hdm : s.sumDm = 0)
    (h : accOverflows s.cfg.accBits 1 = false) :
    accumulate lv s = .ok { s with sumDp := weight lv.dp, sumDm := weight lv.dm } := by
  simpa [hdp, hdm, accOverflows_weight, h] using accumulate_within (lv := lv) (s := s)

theorem accumulate_first_past {lv : Levels} {s : State} (hdp : s.sumDp = 0) (hdm : s.sumDm = 0)
    (h : accOverflows s.cfg.accBits 1 = true) : accumulate lv s = .error (.raise .accOverflow) := by
  simpa [hdp, hdm, accOverflows_weight, h] using accumulate_past (lv := lv) (s := s)

theorem exec_feed_edge {s : State} {t vdp vdm : Binary64} {p : Levels} {e : Time} (h : accepts t vdp vdm s = true)
    (hst : s.st = .idle) (hp : s.prevLv = some p) (hne : p ≠ levels vdp vdm)
    (he : windowEnd s.cfg.timeArith s.speed t 1 = .ok e) :
    exec (.feed t vdp vdm) s = finish s (Except.map (feedCommit t (levels vdp vdm))
      (if s.cfg.edgeSampleCounted then accumulate (levels vdp vdm) (attemptAt e { s with sampleT := t })
        else .ok (attemptAt e { s with sampleT := t }))) := by
  rw [exec_feed_accepted h, stateStep_idle (s := { s with sampleT := t }) t _ hst,
    idleStep_edge (s := { s with sampleT := t }) hp hne, openAttempt_at (s := { s with sampleT := t }) he]

/-- Settles O13: on equal levels IDLE_STEP does nothing; on an edge OPEN_ATTEMPT opens the first window, and its one sample
is counted, counted past the limit, or not counted. -/
theorem feedInIdleOpensAttemptOnEdge : Obligations.FeedInIdleOpensAttemptOnEdge := by
  intro s t vdp vdm p h hst hp lv
  have limit : accOverflows s.cfg.accBits 1 = true ↔ ∃ n, s.cfg.accBits = some n ∧ 2 ^ (n - 1) - 1 < 1 :=
    accOverflows_iff
  refine ⟨fun heq => ⟨t, ?_⟩, fun hne e he => ?_⟩
  · rw [exec_feed_accepted h, stateStep_idle (s := { s with sampleT := t }) t _ hst,
      idleStep_same (s := { s with sampleT := t }) (hp.trans (congrArg some heq))]
    rfl
  · rw [exec_feed_edge h hst hp hne he, ← limit]
    cases hc : s.cfg.edgeSampleCounted with
    | false => exact ⟨fun ⟨hcounted, _⟩ => (nomatch hcounted), fun _ => ⟨t, rfl⟩⟩
    | true =>
      refine ⟨fun ⟨_, hpast⟩ => ?_, fun hwithin => ⟨t, ?_⟩⟩
      · rw [if_pos rfl, accumulate_first_past (s := attemptAt e { s with sampleT := t }) rfl rfl hpast]
        rfl
      · have hfits : accOverflows s.cfg.accBits 1 = false := by simpa using hwithin
        rw [if_pos rfl, accumulate_first (s := attemptAt e { s with sampleT := t }) rfl rfl hfits]
        rfl

/-! ## The ends of an attempt -/

theorem windowStep_ends {t : Binary64} {lv : Levels} {s u : State} (hend : s.winEnd.reached t = true)
    (hu : symbol (resolve s) t { s with winActive := false } = .ok (u, false)) : windowStep t lv s = .ok u := by
  simp [windowStep, hend, hu, Bind.bind, Except.bind]

/-- The sample that closes an attempt's last window is committed on what its line symbol leaves (R92). -/
theorem exec_feed_ends {s u : State} {t vdp vdm : Binary64} (h : accepts t vdp vdm s = true)
    (hin : inAttempt s = true) (hend : s.winEnd.reached t = true)
    (hu : symbol (resolve s) t { s with winActive := false, sampleT := t } = .ok (u, false)) :
    exec (.feed t vdp vdm) s = .next (feedCommit t (levels vdp vdm) u) := by
  rw [exec_feed_accepted h, stateStep_attempt (s := { s with sampleT := t }) t _ (inAttempt_iff.mp hin),
    windowStep_ends (s := { s with sampleT := t }) hend hu]
  rfl

/-- Settles O16: the window resolves to SE1, whose symbol emits the diagnostic and discards the attempt. -/
theorem signalFaultEndsAttempt : Obligations.SignalFaultEndsAttempt := by
  intro s t vdp vdm h hin hend hdp hdm
  have hse1 : resolve s = ⟨true, true⟩ := by simp [resolve, vote, hdp, hdm]
  refine ⟨t, ?_⟩
  rw [exec_feed_ends h hin hend (u := symSe1 t { s with winActive := false, sampleT := t }) (by rw [hse1]; rfl),
    symSe1_eq]
  rfl

/-- A J is differential. -/
theorem dp_ne_dm_of_isJ {lv : Levels} {spd : Speed} (h : isJ lv spd = .ok true) : lv.dp ≠ lv.dm := by
  intro heq
  cases spd <;> simp [isJ, heq] at h

/-- A J after two SE0 windows ends the packet (R95, R98). -/
theorem symbol_eop {lv : Levels} {tm : Binary64} {s : State} (harmed : se0Armed s.se0Count = true)
    (hj : isJ lv s.speed = .ok true) : symbol lv tm s = .ok (gotEopStep { s with se0Count := 0#2 }, false) := by
  have hne := dp_ne_dm_of_isJ hj
  rcases symbol_cases lv tm s with ⟨rfl, -⟩ | ⟨-, he⟩ | ⟨rfl, -⟩
  · exact absurd rfl hne
  · rcases symDiff_cases lv s with ⟨-, hs, -⟩ | ⟨-, -, hd⟩ | ⟨hno, -⟩
    · simp [hs, isJ] at hj
    · rw [he, hd]
    · simp [harmed, hj] at hno
  · exact absurd rfl hne

/-- Settles O17: the window resolves to the J of the speed, whose symbol emits the packet and discards the attempt. -/
theorem endOfPacketEmitsAndReturns : Obligations.EndOfPacketEmitsAndReturns := by
  intro s t vdp vdm h hin hend hse0 hsums
  have harmed : se0Armed s.se0Count = true := decide_eq_true hse0
  have hj : isJ (resolve s) s.speed = .ok true := by
    rcases hsums with ⟨hs, hdp, hdm⟩ | ⟨hs, hdp, hdm⟩ <;> simp [hs, isJ, resolve, vote, hdp, hdm]
  refine ⟨t, ?_⟩
  rw [exec_feed_ends h hin hend (symbol_eop harmed hj), gotEopStep_eq]
  rfl

end Sys2Proof.Machine
end

section
/-! PROOFS. A byte on the line: the NRZI encoding of R64 bit by bit, the row that a differential window runs (R52, R95), and
the eight windows that the NRZI decoder and the byte assembler turn back into the byte (R106, R107, R109, R110, R39). -/

namespace Sys2Proof.Machine

/-! ## The encoder, one bit at a time -/

/-- The line state that shows a data bit after the line state `cur` (R64). -/
def nrziNext (cur : Symbol) (bit : Bool) : Symbol := if bit then cur else cur.toggle

/-- The line state after a sequence of data bits. -/
def nrziLast (cur : Symbol) (bits : List Bool) : Symbol := bits.foldl nrziNext cur

@[simp] theorem nrziLast_nil (cur : Symbol) : nrziLast cur [] = cur := rfl

@[simp] theorem nrziLast_cons (cur : Symbol) (bit : Bool) (bits : List Bool) :
    nrziLast cur (bit :: bits) = nrziLast (nrziNext cur bit) bits := rfl

@[simp] theorem nrziEncode_nil (cur : Symbol) : nrziEncode cur [] = [] := rfl

@[simp] theorem nrziEncode_cons (cur : Symbol) (bit : Bool) (bits : List Bool) :
    nrziEncode cur (bit :: bits) = nrziNext cur bit :: nrziEncode (nrziNext cur bit) bits := by
  cases bit <;> rfl

theorem nrziNext_jk {cur : Symbol} (h : cur = .j ∨ cur = .k) (bit : Bool) :
    nrziNext cur bit = .j ∨ nrziNext cur bit = .k := by
  rcases h with rfl | rfl <;> cases bit <;> decide

/-- J and K are differential at either speed (R13). -/
theorem levels_differential {cur : Symbol} (h : cur = .j ∨ cur = .k) (lowSpeed : Bool) :
    (cur.levels lowSpeed).dp ≠ (cur.levels lowSpeed).dm := by
  rcases h with rfl | rfl <;> cases lowSpeed <;> decide

/-- The decoder's rule of R106 recovers from two line states the bit that the second one encodes. -/
theorem rawBit_nrziNext {cur : Symbol} (h : cur = .j ∨ cur = .k) (bit lowSpeed : Bool) :
    (rawBit ((nrziNext cur bit).levels lowSpeed) == rawBit (cur.levels lowSpeed)) = bit := by
  rcases h with rfl | rfl <;> cases bit <;> cases lowSpeed <;> decide

/-! ## The row of a differential window -/

theorem exec_differential {lv : Levels} (h : lv.dp ≠ lv.dm) (s : State) :
    exec (decodeLine (lineCode lv)) s = finishSub s (symDiff lv s) := by
  obtain ⟨dp, dm⟩ := lv
  cases dp <;> cases dm
  case false.true => rfl
  case true.false => rfl
  all_goals exact absurd rfl h

/-- Without an SE0 window before it a differential window is forwarded (R95). -/
theorem symDiff_unarmed {lv : Levels} {s : State} (h : s.se0Count = 0#2) : symDiff lv s = forward lv s := by
  have hkeep : { s with se0Count := 0#2 } = s := by rw [← h]
  have hunarmed : se0Armed s.se0Count ≠ true := by rw [h]; decide
  rcases symDiff_cases lv s with ⟨harmed, -⟩ | ⟨harmed, -⟩ | ⟨-, hf⟩
  · exact absurd harmed hunarmed
  · exact absurd harmed hunarmed
  · rw [hf, hkeep]

theorem forward_receive {lv : Levels} {s : State} {p : Bool} (hst : s.st = .receive) (hp : s.prevRaw = some p) :
    forward lv s = pack (rawBit lv == p) { s with prevRaw := some (rawBit lv) } := by
  simp [forward, hst, hp]

/-- In RECEIVE the row of the line state that encodes a bit packs that bit and remembers the line state's raw bit. -/
theorem exec_nrziNext {s : State} {cur : Symbol} {lowSpeed : Bool} (bit : Bool) (hst : s.st = .receive)
    (hcur : cur = .j ∨ cur = .k) (hp : s.prevRaw = some (rawBit (cur.levels lowSpeed))) (hse0 : s.se0Count = 0#2) :
    exec (decodeLine (lineCode ((nrziNext cur bit).levels lowSpeed))) s =
      finishSub s (pack bit { s with prevRaw := some (rawBit ((nrziNext cur bit).levels lowSpeed)) }) := by
  rw [exec_differential (levels_differential (nrziNext_jk hcur bit) lowSpeed), symDiff_unarmed hse0,
    forward_receive hst hp, rawBit_nrziNext hcur]

/-! ## The byte assembler -/

theorem bufFull_eq_false_iff {cap : Option Nat} {b : List Byte} : bufFull cap b = false ↔ cap ≠ some b.length := by
  cases cap <;> simp [bufFull, Ne, eq_comm (a := b.length)]

theorem pack_partial {s : State} (bit : Bool) (h : s.curN.toNat < 7) :
    pack bit s = .ok ({ s with curVal := placeBit s.curVal s.curN bit, curN := s.curN + 1#4 }, true) := by
  have hn : s.curN + 1#4 ≠ 8#4 := mt (curN_succ h.le).1 h.ne
  simp [pack, hn]

theorem pack_eighth {s : State} (bit : Bool) (hst : s.st = .receive) (hn : s.curN = 7#4)
    (hroom : s.cfg.bufCap ≠ some s.bytes.length) :
    pack bit s = .ok ({ s with
      bytes := s.bytes ++ [placeBit s.curVal s.curN bit], curVal := 0#8, curN := 0#4 }, true) := by
  simp [pack, hn, hst, bufFull_eq_false_iff.mpr hroom, bufAppend]

/-- The `k` low bits of a byte, the others 0: what CUR_VAL holds of it when CUR_N is `k` (R28). -/
def lowBits (b : Byte) (k : Nat) : Byte := (b.setWidth k).setWidth 8

@[simp] theorem lowBits_zero (b : Byte) : lowBits b 0 = 0#8 := by
  ext i; simp [lowBits]

@[simp] theorem lowBits_eight (b : Byte) : lowBits b 8 = b := by simp [lowBits]

/-- R110: the bit at place `k` extends the `k` low bits by one. -/
theorem placeBit_lowBits (b : Byte) {k : Nat} (hk : k < 8) :
    placeBit (lowBits b k) (BitVec.ofNat 4 k) (b.getLsbD k) = lowBits b (k + 1) := by
  have hn : (BitVec.ofNat 4 k).toNat = k := Nat.mod_eq_of_lt (by omega)
  ext i hi
  simp only [placeBit, lowBits, hn, BitVec.getElem_or, BitVec.getElem_setWidth, BitVec.getElem_shiftLeft]
  obtain hlt | rfl | hgt := lt_trichotomy i k
  · simp [hlt, Nat.lt_succ_of_lt hlt]
  · simp
  · simp [hgt.not_gt, show ¬ i < k + 1 by omega, show i - k ≠ 0 by omega]

/-- The first `k` data bits of `b` are in, in RECEIVE with room in the buffer, and the line shows `cur`. -/
structure ReceivingByte (lowSpeed : Bool) (b : Byte) (k : Nat) (cur : Symbol) (s : State) : Prop where
  st : s.st = .receive
  cur_jk : cur = .j ∨ cur = .k
  prevRaw : s.prevRaw = some (rawBit (cur.levels lowSpeed))
  se0Count : s.se0Count = 0#2
  curVal : s.curVal = lowBits b k
  curN : s.curN = BitVec.ofNat 4 k
  room : s.cfg.bufCap ≠ some s.bytes.length

/-- A state that has taken the first `k` data bits of `b`, the last of them on the line state `cur`. -/
def withLowBits (lowSpeed : Bool) (b : Byte) (k : Nat) (cur : Symbol) (s : State) : State :=
  { s with curVal := lowBits b k, curN := BitVec.ofNat 4 k, prevRaw := some (rawBit (cur.levels lowSpeed)) }

/-- A state that has taken all of `b`, the last bit on the line state `cur`. -/
def withByte (lowSpeed : Bool) (b : Byte) (cur : Symbol) (s : State) : State :=
  { s with bytes := s.bytes ++ [b], curVal := 0#8, curN := 0#4, prevRaw := some (rawBit (cur.levels lowSpeed)) }

theorem ReceivingByte.next {lowSpeed : Bool} {b : Byte} {k : Nat} {cur : Symbol} {s : State}
    (h : ReceivingByte lowSpeed b k cur s) (bit : Bool) (k' : Nat) :
    ReceivingByte lowSpeed b k' (nrziNext cur bit) (withLowBits lowSpeed b k' (nrziNext cur bit) s) :=
  ⟨h.st, nrziNext_jk h.cur_jk bit, rfl, h.se0Count, rfl, rfl, h.room⟩

/-- A data bit before the eighth goes to its place. -/
theorem exec_dataBit {lowSpeed : Bool} {b : Byte} {k : Nat} {cur : Symbol} {s : State}
    (h : ReceivingByte lowSpeed b k cur s) (hk : k < 7) :
    exec (decodeLine (lineCode ((nrziNext cur (b.getLsbD k)).levels lowSpeed))) s =
      .next (withLowBits lowSpeed b (k + 1) (nrziNext cur (b.getLsbD k)) s) := by
  have hn : s.curN + 1#4 = BitVec.ofNat 4 (k + 1) := by rw [h.curN, BitVec.ofNat_add]
  have hval : placeBit s.curVal s.curN (b.getLsbD k) = lowBits b (k + 1) := by
    rw [h.curVal, h.curN, placeBit_lowBits b (by omega)]
  rw [exec_nrziNext _ h.st h.cur_jk h.prevRaw h.se0Count, pack_partial, withLowBits, ← hn, ← hval]
  · rfl
  · rw [h.curN, BitVec.toNat_ofNat]; omega

/-- The eighth data bit completes the byte. -/
theorem exec_eighthDataBit {lowSpeed : Bool} {b : Byte} {cur : Symbol} {s : State}
    (h : ReceivingByte lowSpeed b 7 cur s) :
    exec (decodeLine (lineCode ((nrziNext cur (b.getLsbD 7)).levels lowSpeed))) s =
      .next (withByte lowSpeed b (nrziNext cur (b.getLsbD 7)) s) := by
  have hval : placeBit s.curVal s.curN (b.getLsbD 7) = b := by
    rw [h.curVal, h.curN, placeBit_lowBits b (by omega), lowBits_eight]
  rw [exec_nrziNext _ h.st h.cur_jk h.prevRaw h.se0Count, pack_eighth, hval]
  · rfl
  · exact h.st
  · exact h.curN
  · exact h.room

theorem runLine_cons {lv : Levels} {s t : State} (h : exec (decodeLine (lineCode lv)) s = .next t) (rest : List Levels) :
    runLine (lv :: rest) s = runLine rest t := by
  simp [runLine, h]

/-- The windows of the data bits from place `k` on complete the byte: by induction on the bits after the one at `k`. -/
theorem runLine_byteFrom {lowSpeed : Bool} {b : Byte} {k : Nat} {cur : Symbol} {s : State} (m : Nat) (hk : k + m = 7)
    (h : ReceivingByte lowSpeed b k cur s) :
    let bits := (List.range' k (m + 1)).map b.getLsbD
    runLine ((nrziEncode cur bits).map (Symbol.levels lowSpeed)) s =
      .next (withByte lowSpeed b (nrziLast cur bits) s) := by
  induction m generalizing k cur s with
  | zero =>
    obtain rfl : k = 7 := hk
    simpa [runLine] using runLine_cons (exec_eighthDataBit h) []
  | succ m ih =>
    simp only [List.range'_succ (n := m + 1), List.map_cons, nrziEncode_cons, nrziLast_cons]
    rw [runLine_cons (exec_dataBit h (by omega))]
    exact ih (by omega) (h.next _ _)

/-- The eight windows of a byte leave it at the end of the buffer, the byte assembler empty, and the last line state. -/
theorem runLine_byte {lowSpeed : Bool} {b : Byte} {cur : Symbol} {s : State} (h : ReceivingByte lowSpeed b 0 cur s) :
    runLine ((nrziEncode cur (byteBits b)).map (Symbol.levels lowSpeed)) s =
      .next (withByte lowSpeed b (nrziLast cur (byteBits b)) s) := by
  have := runLine_byteFrom 7 rfl h
  rwa [← List.range_eq_range'] at this

/-- Settles O28: each window packs the bit that its line state encodes, and the eighth appends the byte. -/
theorem nrziByteIsReceived : Obligations.NrziByteIsReceived := by
  intro s cur b hst _ hcur hp hse0 hval hn hroom
  have start : ReceivingByte (s.speed == .ls) b 0 cur s :=
    ⟨hst, hcur, hp, hse0, hval.trans (lowBits_zero b).symm, hn, hroom⟩
  have run := runLine_byte start
  rw [withByte, ← hval, ← hn] at run
  exact ⟨_, run⟩

end Sys2Proof.Machine
end

section
/-! PROOFS. The packet classifier: the bit fields of a record as numbers (R56 to R58), the record of each kind of packet
and the row of PID8 that emits it (R115 to R127), and the byte sequence that every record keeps (R129). -/

namespace Sys2Proof.Machine

/-! ## The bit fields of a record as numbers -/

/-- A field shifted to stand above another: R56 to R58 join bit fields so. -/
theorem toNat_shiftLeft_or {w k : Nat} {hi lo : BitVec w} (hlo : lo.toNat < 2 ^ k) (hhi : hi.toNat * 2 ^ k < 2 ^ w) :
    (hi <<< k ||| lo).toNat = hi.toNat * 2 ^ k + lo.toNat := by
  rw [BitVec.toNat_or, BitVec.toNat_shiftLeft, Nat.shiftLeft_eq, Nat.mod_eq_of_lt hhi, ← Nat.shiftLeft_eq,
    Nat.shiftLeft_add_eq_or_of_lt hlo]

/-- A mask of the `k` low bits keeps the remainder by `2 ^ k`. -/
theorem toNat_and_lowMask {w m : Nat} (k : Nat) (x : BitVec w) (hm : m = 2 ^ k - 1 := by rfl)
    (hw : m < 2 ^ w := by omega) : (x &&& BitVec.ofNat w m).toNat = x.toNat % 2 ^ k := by
  rw [BitVec.toNat_and, BitVec.toNat_ofNat, Nat.mod_eq_of_lt hw, hm, Nat.and_two_pow_sub_one_eq_mod]

theorem field11_eq_ofNat (b2 b3 : Byte) : field11 b2 b3 = BitVec.ofNat 11 (b3.toNat % 8 * 256 + b2.toNat) := by
  have hlow : (b2.setWidth 11).toNat = b2.toNat := BitVec.toNat_setWidth_of_le (by omega)
  have hhigh : (b3.setWidth 11 &&& 0x7#11).toNat = b3.toNat % 8 := by
    rw [toNat_and_lowMask 3, BitVec.toNat_setWidth_of_le (by omega)]; rfl
  apply BitVec.eq_of_toNat_eq
  rw [field11, toNat_shiftLeft_or, hlow, hhigh, BitVec.toNat_ofNat]
  all_goals omega

theorem crc5Received_eq_ofNat (b3 : Byte) : crc5Received b3 = BitVec.ofNat 5 (b3.toNat / 8) := by
  apply BitVec.eq_of_toNat_eq
  rw [crc5Received, BitVec.toNat_setWidth, toNat_and_lowMask 5, BitVec.toNat_ushiftRight, Nat.shiftRight_eq_div_pow,
    BitVec.toNat_ofNat, Nat.mod_mod]

theorem tokenAddress_eq_ofNat (b2 : Byte) : tokenAddress b2 = BitVec.ofNat 7 (b2.toNat % 128) := by
  apply BitVec.eq_of_toNat_eq
  rw [tokenAddress, BitVec.toNat_setWidth, toNat_and_lowMask 7, BitVec.toNat_ofNat]
  rfl

theorem tokenEndpoint_eq_ofNat (b2 b3 : Byte) :
    tokenEndpoint b2 b3 = BitVec.ofNat 4 (b3.toNat % 8 * 2 + b2.toNat / 128) := by
  have hlow : ((b2 &&& 0x80#8) >>> 7).toNat = b2.toNat / 128 := by
    rw [BitVec.ushiftRight_and_distrib, show 0x80#8 >>> 7 = 1#8 from rfl, toNat_and_lowMask 1,
      BitVec.toNat_ushiftRight, Nat.shiftRight_eq_div_pow]
    omega
  have hhigh : (b3 &&& 0x7#8).toNat = b3.toNat % 8 := toNat_and_lowMask 3 b3
  apply BitVec.eq_of_toNat_eq
  rw [tokenEndpoint, BitVec.toNat_setWidth, toNat_shiftLeft_or, hlow, hhigh, BitVec.toNat_ofNat]
  all_goals omega

theorem crc16Received_eq_ofNat (hi lo : Byte) :
    crc16Received hi lo = BitVec.ofNat 16 (hi.toNat * 256 + lo.toNat) := by
  have hlow : (lo.setWidth 16).toNat = lo.toNat := BitVec.toNat_setWidth_of_le (by omega)
  have hhigh : (hi.setWidth 16).toNat = hi.toNat := BitVec.toNat_setWidth_of_le (by omega)
  apply BitVec.eq_of_toNat_eq
  rw [crc16Received, toNat_shiftLeft_or, hlow, hhigh, BitVec.toNat_ofNat]
  all_goals omega

/-! ## The rows of PID8 and their records -/

section Rows
variable (s : State)

/-! A row of PID8 emits the record of its kind and writes no register (log 13). -/

theorem exec_sof : exec .sof s = .next (emit (.packet (sofPacket s.cfg.crc5Order s.bytes)) s) := rfl
theorem exec_setup : exec .setup s = .next (emit (.packet (tokenPacket s.cfg.crc5Order .setup s.bytes)) s) := rfl
theorem exec_inToken : exec .inToken s =
    .next (emit (.packet (tokenPacket s.cfg.crc5Order .inToken s.bytes)) s) := rfl
theorem exec_outToken : exec .outToken s =
    .next (emit (.packet (tokenPacket s.cfg.crc5Order .outToken s.bytes)) s) := rfl
theorem exec_data0 : exec .data0 s = .next (emit (.packet (dataPacket .data0 s.bytes)) s) := rfl
theorem exec_data1 : exec .data1 s = .next (emit (.packet (dataPacket .data1 s.bytes)) s) := rfl
theorem exec_ack : exec .ack s = .next (emit (.packet (handshakePacket .ack s.bytes)) s) := rfl
theorem exec_nak : exec .nak s = .next (emit (.packet (handshakePacket .nak s.bytes)) s) := rfl
theorem exec_stall : exec .stall s = .next (emit (.packet (handshakePacket .stall s.bytes)) s) := rfl
theorem exec_raw (pid : Byte) : exec (.raw pid) s = .next (emit (.packet (.raw s.bytes)) s) := rfl

end Rows

theorem needsFour_of_le_length {b : List Byte} (h : 4 ≤ b.length) (rec : Option Packet) :
    needsFour b rec = rec.getD (.raw b) := if_pos h

/-- R116 on a buffer that reaches index 3. -/
theorem sofPacket_eq {b : List Byte} {b0 b1 b2 b3 : Byte} {rest : List Byte} (h : b = b0 :: b1 :: b2 :: b3 :: rest)
    (order : Crc5Order) :
    sofPacket order b =
      .sof (field11 b2 b3) (crc5Received b3) (crc5Matches order (field11 b2 b3) (crc5Received b3)) b := by
  subst h
  exact needsFour_of_le_length (by simp) _

/-- Settles O31: the SOF record of four bytes, its fields read as numbers. -/
theorem sofRecordFields : Obligations.SofRecordFields := by
  intro s b0 b1 b2 b3 rest hbytes
  rw [exec_sof, sofPacket_eq hbytes, field11_eq_ofNat, crc5Received_eq_ofNat]
  rfl

/-- R117 on a buffer that reaches index 3. -/
theorem tokenPacket_eq {b : List Byte} {b0 b1 b2 b3 : Byte} {rest : List Byte} (h : b = b0 :: b1 :: b2 :: b3 :: rest)
    (order : Crc5Order) (k : TokenKind) :
    tokenPacket order k b =
      .token k (tokenAddress b2) (tokenEndpoint b2 b3) (crc5Received b3)
        (crc5Matches order (field11 b2 b3) (crc5Received b3)) b := by
  subst h
  exact needsFour_of_le_length (by simp) _

/-- Settles O32: one record for the three kinds, its fields read as numbers. -/
theorem tokenRecordFields : Obligations.TokenRecordFields := by
  intro s b0 b1 b2 b3 rest hbytes
  simp only [exec_setup, exec_inToken, exec_outToken, tokenPacket_eq hbytes, tokenAddress_eq_ofNat,
    tokenEndpoint_eq_ofNat, crc5Received_eq_ofNat, field11_eq_ofNat]
  exact ⟨rfl, rfl, rfl⟩

theorem memReadBack_last (b : List Byte) (lo hi : Byte) : memReadBack (b ++ [lo, hi]) 1 = some hi := by
  simp [memReadBack]

theorem memReadBack_secondLast (b : List Byte) (lo hi : Byte) : memReadBack (b ++ [lo, hi]) 2 = some lo := by
  simp [memReadBack]

/-- `S.BYTES[a .. -2]` leaves out the two trailing bytes (R11). -/
theorem memSlice_append_two (b : List Byte) (lo hi : Byte) (a : Nat) : memSlice (b ++ [lo, hi]) a = b.drop a := by
  simp [memSlice]

/-- R121 on a buffer of a SYNC byte, a PID byte, a payload of any length and two trailing bytes. -/
theorem dataPacket_eq {b : List Byte} {b0 b1 lo hi : Byte} {payload : List Byte}
    (h : b = b0 :: b1 :: (payload ++ [lo, hi])) (k : DataPid) :
    dataPacket k b = .data k payload (crc16Received hi lo) (crc16Matches payload (crc16Received hi lo)) b := by
  obtain rfl : b = (b0 :: b1 :: payload) ++ [lo, hi] := h
  rw [dataPacket, needsFour_of_le_length (by simp), dataRec, memReadBack_last, memReadBack_secondLast,
    memSlice_append_two]
  rfl

/-- Settles O33: one record for the two PIDs, its checksum read as a number. -/
theorem dataRecordFields : Obligations.DataRecordFields := by
  intro s b0 b1 lo hi payload hbytes
  rw [exec_data0, exec_data1, dataPacket_eq hbytes, dataPacket_eq hbytes, crc16Received_eq_ofNat]
  exact ⟨rfl, rfl⟩

theorem handshakePacket_of_two_le_length {b : List Byte} (h : 2 ≤ b.length) (k : HandshakeKind) :
    handshakePacket k b = .handshake k b := if_pos h

/-- Settles O34: two bytes are enough, and the record takes the whole buffer. -/
theorem handshakeRecords : Obligations.HandshakeRecords := by
  intro s b0 b1 rest hbytes
  have hrec (k : HandshakeKind) : handshakePacket k s.bytes = .handshake k (b0 :: b1 :: rest) := by
    rw [hbytes]; exact handshakePacket_of_two_le_length (by simp) k
  rw [exec_ack, exec_nak, exec_stall, hrec, hrec, hrec]
  exact ⟨rfl, rfl, rfl⟩

/-- R54: the decoder's nine comparisons fail on every byte that is none of the nine. -/
theorem decodePid_of_not_named {pid : Byte} (h : pid ∉ namedPids) : decodePid pid = .raw pid := by
  simp only [namedPids, List.mem_cons, List.not_mem_nil, or_false, not_or] at h
  simp [decodePid, h]

/-- Settles O35: RAW is the decoder's last case, and its record is the buffer. -/
theorem rawRecord : Obligations.RawRecord :=
  ⟨fun _ => decodePid_of_not_named, fun s pid => exec_raw s pid⟩

/-! ## The byte sequence of a record -/

/-- A record of four bytes keeps the bytes where its extractor does, as Raw keeps them (R115). -/
theorem needsFour_rawBytes {b : List Byte} {rec : Option Packet} (h : ∀ p ∈ rec, p.rawBytes = b) :
    (needsFour b rec).rawBytes = b := by
  unfold needsFour
  split
  · cases rec with
    | none => rfl
    | some p => exact h p rfl
  · rfl

theorem sofRec_rawBytes {order : Crc5Order} {b : List Byte} {p : Packet} (h : p ∈ sofRec order b) :
    p.rawBytes = b := by
  simp only [sofRec, bind, Option.mem_def, Option.bind_eq_some_iff, Option.some.injEq] at h
  obtain ⟨b2, -, b3, -, rfl⟩ := h
  rfl

theorem tokenRec_rawBytes {order : Crc5Order} {k : TokenKind} {b : List Byte} {p : Packet}
    (h : p ∈ tokenRec order k b) : p.rawBytes = b := by
  simp only [tokenRec, bind, Option.mem_def, Option.bind_eq_some_iff, Option.some.injEq] at h
  obtain ⟨b2, -, b3, -, rfl⟩ := h
  rfl

theorem dataRec_rawBytes {k : DataPid} {b : List Byte} {p : Packet} (h : p ∈ dataRec k b) : p.rawBytes = b := by
  simp only [dataRec, bind, Option.mem_def, Option.bind_eq_some_iff, Option.some.injEq] at h
  obtain ⟨last, -, secondLast, -, rfl⟩ := h
  rfl

theorem handshakePacket_rawBytes (k : HandshakeKind) (b : List Byte) : (handshakePacket k b).rawBytes = b := by
  unfold handshakePacket
  split <;> rfl

/-- R129 for each row of R54. -/
theorem classifyPid_rawBytes (order : Crc5Order) (pid : Byte) (b : List Byte) :
    (classifyPid order pid b).rawBytes = b := by
  have sof : (sofPacket order b).rawBytes = b := needsFour_rawBytes fun _ => sofRec_rawBytes
  have token (k : TokenKind) : (tokenPacket order k b).rawBytes = b := needsFour_rawBytes fun _ => tokenRec_rawBytes
  have data (k : DataPid) : (dataPacket k b).rawBytes = b := needsFour_rawBytes fun _ => dataRec_rawBytes
  have handshake (k : HandshakeKind) := handshakePacket_rawBytes k b
  unfold classifyPid
  split_ifs
  exacts [sof, token _, token _, token _, data _, data _, handshake _, handshake _, handshake _, rfl]

/-- Settles O37: a sequence with a PID byte keeps its bytes in the PID's record, a shorter one is Raw. -/
theorem everyRecordKeepsRawBytes : Obligations.EveryRecordKeepsRawBytes := by
  intro order b
  unfold classify
  split
  · exact classifyPid_rawBytes order _ b
  · rfl

end Sys2Proof.Machine
end

section
/-! PROOFS. The checksums by table (R133, R137, R140). Both are shift registers with linear feedback, so what two summands
of an input do to the register adds up: a printed row of CRC5 follows from the first row, and the CRC16 byte step needs
only the table of the low byte. -/

namespace Sys2Proof.Machine

/-! ## Feedback is linear -/

/-- The taps of two firings cancel. -/
theorem feedback_xor {w : Nat} (p q : Bool) (u v taps : BitVec w) :
    (if p ^^ q then u ^^^ v ^^^ taps else u ^^^ v) =
      (if p then u ^^^ taps else u) ^^^ (if q then v ^^^ taps else v) := by
  have cancel : u ^^^ taps ^^^ (v ^^^ taps) = u ^^^ v := by
    rw [show u ^^^ taps ^^^ (v ^^^ taps) = u ^^^ v ^^^ (taps ^^^ taps) by ac_rfl, BitVec.xor_self, BitVec.xor_zero]
  cases p <;> cases q
  · rfl
  · exact BitVec.xor_assoc u v taps
  · show u ^^^ v ^^^ taps = u ^^^ taps ^^^ v
    ac_rfl
  · exact cancel.symm

theorem crc5DocBit_xor (x y : BitVec 5) (a b : Bool) :
    crc5DocBit (x ^^^ y) (a ^^ b) = crc5DocBit x a ^^^ crc5DocBit y b := by
  simp only [crc5DocBit, BitVec.getLsbD_xor, Bool.xor_assoc, Bool.xor_left_comm (y.getLsbD 4) a b,
    BitVec.shiftLeft_xor_distrib, ← feedback_xor]

theorem crc5UsbBit_xor (x y : BitVec 5) (a b : Bool) :
    crc5UsbBit (x ^^^ y) (a ^^ b) = crc5UsbBit x a ^^^ crc5UsbBit y b := by
  simp only [crc5UsbBit, BitVec.getLsbD_xor, Bool.xor_assoc, Bool.xor_left_comm (y.getLsbD 0) a b,
    BitVec.ushiftRight_xor_distrib, ← feedback_xor]

theorem crc16Bit_xor (x y : BitVec 16) : crc16Bit (x ^^^ y) = crc16Bit x ^^^ crc16Bit y := by
  simp only [crc16Bit, BitVec.getLsbD_xor, BitVec.ushiftRight_xor_distrib, feedback_xor]

/-! ## CRC16: the byte step by table (R137) -/

theorem crc16Loop_xor (x y : BitVec 16) : crc16Loop (x ^^^ y) = crc16Loop x ^^^ crc16Loop y := by
  simp only [crc16Loop, crc16Bit_xor]

/-- While the bit at the register's end is 0, a turn only shifts. -/
theorem crc16Bit_shiftLeft_succ (c : BitVec 16) {k : Nat} (hk : k < 8) :
    crc16Bit (c >>> 8 <<< (k + 1)) = c >>> 8 <<< k := by
  have shifted : c >>> 8 <<< (k + 1) >>> 1 = c >>> 8 <<< k := by
    apply BitVec.eq_of_getLsbD_eq
    intro i hi
    simp only [BitVec.getLsbD_ushiftRight, BitVec.getLsbD_shiftLeft]
    grind
  simp [crc16Bit, shifted]

/-- A high byte is shifted into the place of the low one: its eight turns meet only zeros. -/
theorem crc16Loop_highByte (c : BitVec 16) : crc16Loop (c >>> 8 <<< 8) = c >>> 8 := by
  simp [crc16Loop, crc16Bit_shiftLeft_succ]

theorem highByte_xor_lowByte (c : BitVec 16) : c >>> 8 <<< 8 ^^^ (c.setWidth 8).setWidth 16 = c := by
  apply BitVec.eq_of_getLsbD_eq
  intro i hi
  simp only [BitVec.getLsbD_xor, BitVec.getLsbD_shiftLeft, BitVec.getLsbD_ushiftRight, BitVec.getLsbD_setWidth]
  grind

theorem t16_eq_crc16Loop : ∀ i : Byte, t16 i = crc16Loop (i.setWidth 16) := by decide +kernel

/-- The eight turns keep the high byte, shifted, and feed back the table's entry for the low one. -/
theorem crc16Loop_eq_t16 (c : BitVec 16) : crc16Loop c = c >>> 8 ^^^ t16 (c.setWidth 8) :=
  calc crc16Loop c
      = crc16Loop (c >>> 8 <<< 8 ^^^ (c.setWidth 8).setWidth 16) := by rw [highByte_xor_lowByte]
    _ = c >>> 8 ^^^ t16 (c.setWidth 8) := by rw [crc16Loop_xor, crc16Loop_highByte, ← t16_eq_crc16Loop]

/-- R137: the byte step by table is the byte step of R136. -/
theorem crc16TableStep_eq (crc : BitVec 16) (b : Byte) :
    crc >>> 8 ^^^ t16 ((crc ^^^ b.setWidth 16).setWidth 8) = crc16Loop (crc ^^^ b.setWidth 16) := by
  have byte : b.setWidth 16 >>> 8 = 0#16 := by
    rw [← BitVec.setWidth_ushiftRight (by omega), BitVec.ushiftRight_eq_zero (Nat.le_refl 8), BitVec.setWidth_zero]
  rw [crc16Loop_eq_t16, BitVec.ushiftRight_xor_distrib, byte, BitVec.xor_zero]

theorem crc16Table_eq_crc16 (p : List Byte) : crc16Table p = crc16 p := by
  simp only [crc16Table, crc16, crc16TableStep_eq]

/-- The check value of CRC16, over the digits 1 to 9 in ASCII. -/
theorem crc16_checkValue :
    crc16 [0x31#8, 0x32#8, 0x33#8, 0x34#8, 0x35#8, 0x36#8, 0x37#8, 0x38#8, 0x39#8] = 0xb4c8#16 := by decide +kernel

/-- Settles O59: the two byte steps agree in every state of the register, so the folds over a payload agree. -/
theorem crc16TableIsBitSerial : Obligations.Crc16TableIsBitSerial :=
  ⟨t16_eq_crc16Loop, crc16Table_eq_crc16, crc16_checkValue⟩

/-! ## CRC5: the printed rows (R133, R140) -/

/-- The register's run on a sum of inputs, from a sum of starts, is the sum of the two runs. -/
theorem foldl_bits_xor {f : BitVec 5 → Bool → BitVec 5}
    (hf : ∀ x y a b, f (x ^^^ y) (a ^^ b) = f x a ^^^ f y b) (n m : BitVec 11) (is : List Nat) (x y : BitVec 5) :
    is.foldl (fun reg i => f reg ((n ^^^ m).getLsbD i)) (x ^^^ y) =
      is.foldl (fun reg i => f reg (n.getLsbD i)) x ^^^ is.foldl (fun reg i => f reg (m.getLsbD i)) y := by
  induction is generalizing x y with
  | nil => rfl
  | cons i is ih => rw [List.foldl_cons, BitVec.getLsbD_xor, hf, ih, List.foldl_cons, List.foldl_cons]

/-- `CRC5(n)` with a register that starts at zero, and no complement: what the input alone adds to the checksum. -/
def crc5FromZero (order : Crc5Order) (n : BitVec 11) : BitVec 5 :=
  match order with
  | .docMsbFirst => [10, 9, 8, 7, 6, 5, 4, 3, 2, 1, 0].foldl (fun reg i => crc5DocBit reg (n.getLsbD i)) 0#5
  | .usbReflected => [0, 1, 2, 3, 4, 5, 6, 7, 8, 9, 10].foldl (fun reg i => crc5UsbBit reg (n.getLsbD i)) 0#5

/-- CRC5 is affine: what one summand adds does not depend on the other. -/
theorem crc5_xor (order : Crc5Order) (n m : BitVec 11) :
    crc5 order (n ^^^ m) = crc5FromZero order n ^^^ crc5 order m := by
  cases order
  case docMsbFirst =>
    exact (congrArg (· ^^^ 0x1f#5) (foldl_bits_xor crc5DocBit_xor n m _ 0#5 0b11111#5)).trans (BitVec.xor_assoc ..)
  case usbReflected =>
    exact (congrArg (· ^^^ 0x1f#5) (foldl_bits_xor crc5UsbBit_xor n m _ 0#5 0b11111#5)).trans (BitVec.xor_assoc ..)

/-- A row of 32 entries that are all `c`. -/
def constRow (c : BitVec 5) : Nat :=
  c.toNat * 0x0101010101010101010101010101010101010101010101010101010101010101

theorem rowEntry_constRow : ∀ c : BitVec 5, ∀ j < 32, BitVec.ofNat 5 (rowEntry 8 32 (constRow c) j) = c := by
  decide +kernel

theorem rowEntry_xor (digits len a b j : Nat) :
    rowEntry digits len (a ^^^ b) j = rowEntry digits len a j ^^^ rowEntry digits len b j := by
  simp only [rowEntry, Nat.shiftRight_xor_distrib, Nat.xor_mod_two_pow]

/-- The printed rows of a variant (R140). -/
def crc5Rows (order : Crc5Order) : List Nat :=
  match order with
  | .docMsbFirst => crc5DocRows
  | .usbReflected => crc5UsbRows

theorem crc5Table_eq_t5 (order : Crc5Order) (n : BitVec 11) : crc5Table order n = t5 (crc5Rows order) n := by
  cases order <;> rfl

/-- The first printed row, entry by entry. -/
theorem crc5Rows_first (order : Crc5Order) :
    ∀ j < 32, BitVec.ofNat 5 (rowEntry 8 32 ((crc5Rows order).getD 0 0) j) = crc5 order (BitVec.ofNat 11 j) := by
  cases order <;> decide +kernel

/-- Each printed row is the first one, with the same term added to every entry. -/
theorem crc5Rows_eq_first_xor (order : Crc5Order) :
    ∀ r < 64, (crc5Rows order).getD r 0 =
      (crc5Rows order).getD 0 0 ^^^ constRow (crc5FromZero order (BitVec.ofNat 11 (32 * r))) := by
  cases order <;> decide +kernel

theorem xor_split_at_32 (n : Nat) : 32 * (n / 32) ^^^ n % 32 = n := by
  have hdiv : (32 * (n / 32) ^^^ n % 32) / 32 = n / 32 := by rw [Nat.xor_div_two_pow (n := 5)]; simp
  have hmod : (32 * (n / 32) ^^^ n % 32) % 32 = n % 32 := by rw [Nat.xor_mod_two_pow (n := 5)]; simp
  omega

/-- Settles O58: the entry in row `r` and column `j` is the first row's entry `CRC5(j)` plus what `32r` adds, which is
`CRC5(32r + j)`. -/
theorem crc5TablesAreBitSerial : Obligations.Crc5TablesAreBitSerial := by
  intro order n
  have hrow : n.toNat / 32 < 64 := by omega
  have hcol : n.toNat % 32 < 32 := by omega
  have split : n = BitVec.ofNat 11 (32 * (n.toNat / 32)) ^^^ BitVec.ofNat 11 (n.toNat % 32) := by
    rw [← BitVec.ofNat_xor, xor_split_at_32, BitVec.ofNat_toNat, BitVec.setWidth_eq]
  calc crc5Table order n
      = BitVec.ofNat 5 (rowEntry 8 32 ((crc5Rows order).getD (n.toNat / 32) 0) (n.toNat % 32)) :=
        crc5Table_eq_t5 order n
    _ = crc5 order (BitVec.ofNat 11 (n.toNat % 32)) ^^^ crc5FromZero order (BitVec.ofNat 11 (32 * (n.toNat / 32))) := by
        rw [crc5Rows_eq_first_xor order _ hrow, rowEntry_xor, BitVec.ofNat_xor, crc5Rows_first order _ hcol,
          rowEntry_constRow _ _ hcol]
    _ = crc5 order n := by rw [BitVec.xor_comm, ← crc5_xor, ← split]

end Sys2Proof.Machine
end

section
/-! PROOFS. The exceptions (60_exceptions.md): the block is stuck after a fault until a reset (R149), a FEED emits at most
one record, and none with a fault (R148, R150), and so the strobes of a step exclude each other (R155). -/

namespace Sys2Proof.Machine

/-! ## Stuck until reset -/

theorem exec_feed_stuck {s : State} {c : FaultCode} (t vdp vdm : Binary64) (h : s.fault = some c) :
    exec (.feed t vdp vdm) s = .next s := by
  simp [exec, execFeed, h]

theorem step_keeps_fault_unless_reset {s t : State} {c : FaultCode} (hfault : s.fault = some c)
    (h : step s = .next t) : t.fault = some c ∨ ∃ code rest, s.inputs = .reset code :: rest := by
  match hi : s.inputs with
  | [] =>
    rw [step_empty hi] at h
    cases h
    exact .inl hfault
  | .sample w :: rest =>
    obtain ⟨u, hu, rfl⟩ := step_sample_next hi h
    cases (exec_feed_stuck (s := { s with inputs := rest }) _ _ _ hfault).symm.trans hu
    exact .inl hfault
  | .reset code :: rest => exact .inr ⟨code, rest, rfl⟩

/-- Settles O8: a stuck FEED answers its own state, RESET with a hint's code writes FAULT, and no other input does. -/
theorem stuckUntilReset : Obligations.StuckUntilReset := by
  intro s c hfault
  refine ⟨fun t vdp vdm => exec_feed_stuck t vdp vdm hfault, fun code hcode => ?_,
    fun u h => step_keeps_fault_unless_reset hfault h⟩
  obtain ⟨hint, rfl⟩ := (hintCode_cases code).resolve_left hcode
  exact ⟨resetState hint s, exec_reset_code hint s, rfl⟩

/-! ## The records of a FEED, from PACK up to the step -/

/-- What an operation that starts with the records `before` in the FEED of index `i` may do to them. -/
inductive LogMove (before : List (Nat × Output)) (i : Nat) (t : State) : Prop
  | kept (log : t.log = before)
  | appended (o : Output) (log : t.log = before ++ [(i, o)])

/-- Only the records of the state afterwards matter. -/
theorem LogMove.congr {before : List (Nat × Output)} {i : Nat} {t u : State} (h : LogMove before i t)
    (hlog : u.log = t.log) : LogMove before i u := by
  cases h with
  | kept h => exact .kept (hlog.trans h)
  | appended o h => exact .appended o (hlog.trans h)

theorem syncCheck_log {b : Byte} {s t : State} {cont : Bool} (h : syncCheck b s = .ok (t, cont)) :
    t.log = s.log := by
  rcases syncCheck_cases b s with ⟨-, he⟩ | ⟨-, he⟩ | ⟨-, -, he⟩ <;> rw [he] at h <;> cases h
  · rfl
  · exact discard_log s

theorem pack_log {bit : Bool} {s t : State} {cont : Bool} (h : pack bit s = .ok (t, cont)) : t.log = s.log := by
  rcases pack_cases bit s with ⟨-, he⟩ | ⟨-, -, he⟩ | ⟨-, -, -, he⟩ | ⟨-, -, -, he⟩ <;> rw [he] at h
  · cases h; rfl
  · cases h
  · cases h; rfl
  · exact (syncCheck_log h :)

theorem forward_log {lv : Levels} {s t : State} {cont : Bool} (h : forward lv s = .ok (t, cont)) :
    t.log = s.log := by
  rcases forward_cases lv s with ⟨-, he⟩ | ⟨-, -, he⟩ | ⟨-, p, -, he⟩ <;> rw [he] at h
  · exact (pack_log h :)
  · cases h; rfl
  · exact (pack_log h :)

theorem gotEopStep_logMove (s : State) : LogMove s.log s.feedIndex (gotEopStep s) := by
  rw [gotEopStep_eq]
  by_cases hlen : 1 < s.bytes.length
  · exact .appended _ (if_pos hlen)
  · exact .kept (if_neg hlen)

/-- SE1 emits its diagnostic and an EOP its packet; a forwarded window emits nothing. -/
theorem symbol_logMove {lv : Levels} {tm : Binary64} {s t : State} {cont : Bool}
    (h : symbol lv tm s = .ok (t, cont)) : LogMove s.log s.feedIndex t := by
  rcases symbol_cases lv tm s with ⟨-, he⟩ | ⟨-, he⟩ | ⟨-, he⟩ <;> rw [he] at h
  · cases h; exact .appended _ rfl
  · rcases symDiff_cases lv s with ⟨-, -, hd⟩ | ⟨-, -, hd⟩ | ⟨-, hd⟩ <;> rw [hd] at h
    · cases h
    · cases h; exact gotEopStep_logMove { s with se0Count := 0#2 }
    · exact .kept (forward_log h :)
  · exact .kept (forward_log h :)

theorem accumulate_log {lv : Levels} {s t : State} (h : accumulate lv s = .ok t) : t.log = s.log := by
  obtain ⟨-, -, rfl⟩ := accumulate_ok h
  rfl

theorem windowStep_logMove {tm : Binary64} {lv : Levels} {s t : State} (h : windowStep tm lv s = .ok t) :
    LogMove s.log s.feedIndex t := by
  rcases windowStep_cases tm lv s with ⟨-, he⟩ | ⟨-, ⟨e, -, he⟩ | ⟨u, hu, he⟩ | ⟨u, hu, ⟨e, -, he⟩ | ⟨e, -, he⟩⟩⟩ <;>
    rw [he] at h
  · exact .kept (accumulate_log h)
  · cases h
  · cases h; exact (symbol_logMove hu :)
  · cases h
  · exact (symbol_logMove hu).congr (accumulate_log h :)

theorem idleStep_log {tm : Binary64} {lv : Levels} {s t : State} (h : idleStep tm lv s = .ok t) : t.log = s.log := by
  rcases idleStep_cases tm lv s with ⟨-, he⟩ | ⟨-, he⟩ | ⟨-, -, he⟩ <;> rw [he] at h
  · cases h
  · cases h; rfl
  · rcases openAttempt_cases tm lv s with ⟨-, ho⟩ | ⟨e, -, ho⟩ <;> rw [ho] at h
    · cases h
    · split at h
      · exact (accumulate_log h :)
      · cases h; rfl

/-- Only a window step emits. -/
theorem stateStep_logMove {tm : Binary64} {lv : Levels} {s t : State} (h : stateStep tm lv s = .ok t) :
    LogMove s.log s.feedIndex t := by
  cases hst : s.st with
  | unknown => rw [stateStep_unknown tm lv hst] at h; cases h; exact .kept rfl
  | idle => exact .kept (idleStep_log (stateStep_idle tm lv hst ▸ h))
  | detectSync => exact windowStep_logMove (stateStep_attempt tm lv (.inl hst) ▸ h)
  | receive => exact windowStep_logMove (stateStep_attempt tm lv (.inr hst) ▸ h)
  | gotSe1 => rw [stateStep_transient tm lv (.inl hst)] at h; cases h
  | gotEop => rw [stateStep_transient tm lv (.inr hst)] at h; cases h

theorem feed_logMove {tm vdp vdm : Binary64} {s t : State} (h : feed tm vdp vdm s = .ok t) :
    LogMove s.log s.feedIndex t := by
  rcases feed_cases tm vdp vdm s with ⟨c, -, he⟩ | ⟨-, ⟨e, -, he⟩ | ⟨u, hu, he⟩⟩ <;> rw [he] at h <;> cases h
  exact (stateStep_logMove hu).congr (feedCommit_log ..)

theorem exec_feed_logMove {tm vdp vdm : Binary64} {s t : State} (h : exec (.feed tm vdp vdm) s = .next t) :
    LogMove s.log s.feedIndex t := by
  cases hfault : s.fault with
  | some c =>
    cases (exec_feed_stuck tm vdp vdm hfault).symm.trans h
    exact .kept rfl
  | none =>
    rw [exec_feed_unstuck tm vdp vdm hfault] at h
    rcases finish_next h with hok | ⟨c, -, rfl⟩
    · exact feed_logMove hok
    · exact .kept (raiseFault_log c s)

/-- R148, R149: a stuck FEED and one that raises a fault emit nothing. -/
theorem exec_feed_log_of_fault {tm vdp vdm : Binary64} {s t : State} (h : exec (.feed tm vdp vdm) s = .next t)
    (ht : t.fault ≠ none) : t.log = s.log := by
  cases hfault : s.fault with
  | some c =>
    cases (exec_feed_stuck tm vdp vdm hfault).symm.trans h
    rfl
  | none =>
    rcases feedCommitsOrFaultsWhole s t tm vdp vdm hfault h with ⟨hnone, -, -⟩ | ⟨c, rfl⟩
    · exact absurd hnone ht
    · rfl

/-- The records move in a step as in its FEED; with no sample pending they stay. -/
theorem step_logMove {s t : State} (h : step s = .next t) :
    LogMove s.log s.feedIndex t ∧ (t.fault ≠ none → t.log = s.log) := by
  match hi : s.inputs with
  | [] =>
    rw [step_empty hi] at h
    cases h
    exact ⟨.kept rfl, fun _ => rfl⟩
  | .sample w :: rest =>
    obtain ⟨u, hu, rfl⟩ := step_sample_next hi h
    exact ⟨(exec_feed_logMove hu).congr rfl, (exec_feed_log_of_fault hu :)⟩
  | .reset code :: rest =>
    rw [step_reset hi] at h
    obtain ⟨hint, rfl⟩ := execReset_next h
    exact ⟨.kept rfl, fun _ => rfl⟩

/-- Settles O48: the records a step appends are none or the one of its FEED. -/
theorem atMostOneRecordPerFeed : Obligations.AtMostOneRecordPerFeed := by
  intro s t h
  obtain ⟨hmove, hfault⟩ := step_logMove h
  cases hmove with
  | kept hlog => exact ⟨[], by simpa using hlog, by simp, by simp, fun _ => rfl⟩
  | appended o hlog =>
    refine ⟨[(s.feedIndex, o)], hlog, by simp, by simp, fun ht => ?_⟩
    have hkept := hfault ht
    simp [hlog] at hkept

/-! ## The strobes of a step -/

theorem emitted_of_log_eq_append {s t : State} {recs : List (Nat × Output)} (h : t.log = s.log ++ recs) :
    emitted s t = recs := by
  simp [emitted, h]

theorem strobes_off_of_emitted_nil {s t : State} (h : emitted s t = []) :
    packetStrobe s t = false ∧ diagStrobe s t = false := by
  simp [packetStrobe, diagStrobe, h]

/-- A single record is a packet or a diagnostic. -/
theorem strobes_exclusive_of_length_le_one {s t : State} (h : (emitted s t).length ≤ 1) :
    ¬ (packetStrobe s t = true ∧ diagStrobe s t = true) := by
  match he : emitted s t with
  | [] => simp [strobes_off_of_emitted_nil he]
  | [(_, .packet _)] => simp [diagStrobe, he]
  | [(_, .diag _ _)] => simp [packetStrobe, he]
  | _ :: _ :: _ => simp [he] at h

theorem faultIndication_iff {s : State} : faultIndication s = true ↔ ∃ c, s.fault = some c :=
  Option.isSome_iff_exists

/-- Settles O50: the strobes are those of at most one record, which no fault comes with, and a fault stays until a reset. -/
theorem strobesOfAStep : Obligations.StrobesOfAStep := by
  intro s t h
  obtain ⟨recs, hlog, hlen, -, hfault⟩ := atMostOneRecordPerFeed s t h
  have hrecs : emitted s t = recs := emitted_of_log_eq_append hlog
  refine ⟨strobes_exclusive_of_length_le_one (hrecs ▸ hlen), fun ht => ?_, fun hs => ?_⟩
  · obtain ⟨c, hc⟩ := faultIndication_iff.mp ht
    exact strobes_off_of_emitted_nil (hrecs.trans (hfault (by simp [hc])))
  · obtain ⟨c, hc⟩ := faultIndication_iff.mp hs
    exact (step_keeps_fault_unless_reset hc h).imp_left fun ht => faultIndication_iff.mpr ⟨c, ht⟩

end Sys2Proof.Machine
end

section
/-! PROOFS. RESET (70_reset_and_hazards.md R162): the register file it leaves is that of R33, with the speed of the hint. -/

namespace Sys2Proof.Machine

/-- R33: the speed a hint gives, read off its code. -/
theorem hint_speed_eq_of_code (hint : Hint) :
    hint.speed = if hint.code = 1#2 then .ls else if hint.code = 2#2 then .fs else .none := by
  cases hint <;> rfl

/-- Settles O39: a code that is not reserved is a hint's own, and RESET answers it with that hint's reset state. -/
theorem resetWritesEveryRegister : Obligations.ResetWritesEveryRegister := by
  refine fun s => ⟨exec_reset_reserved s, fun code hcode => ?_⟩
  obtain ⟨hint, rfl⟩ := (hintCode_cases code).resolve_left hcode
  refine ⟨hint, (resetState hint s).sampleT, (resetState hint s).winEnd, rfl, ?_⟩
  rw [exec_reset_code, ← hint_speed_eq_of_code]
  rfl

end Sys2Proof.Machine
end

section
/-! PROOFS. The decoder and the encoder (30_encoding.md, spec/opcode_table.json): each inverts the other, and the rows
of the table say the same. -/

namespace Sys2Proof

/-- The three fields of a sample word are where R48 puts them. -/
theorem decodeSample_append (t vdp vdm : Binary64) : decodeSample (t ++ vdp ++ vdm) = .feed t vdp vdm := by
  have ht : (t ++ vdp ++ vdm).extractLsb' 128 64 = t := by
    rw [BitVec.extractLsb'_append_eq_of_le (by omega), BitVec.extractLsb'_append_eq_left]
  have hvdp : (t ++ vdp ++ vdm).extractLsb' 64 64 = vdp := by
    rw [BitVec.extractLsb'_append_eq_of_le (by omega), BitVec.extractLsb'_append_eq_right]
  have hvdm : (t ++ vdp ++ vdm).extractLsb' 0 64 = vdm := BitVec.extractLsb'_append_eq_right
  rw [decodeSample, ht, hvdp, hvdm]

theorem encode_decodeSample (w : BitVec 192) : encode (decodeSample w) = .sample w := by
  have hjoin : w.extractLsb' 128 64 ++ w.extractLsb' 64 64 ++ w.extractLsb' 0 64 = w := by
    rw [BitVec.extractLsb'_append_extractLsb'_eq_extractLsb' (show 128 = 64 + 64 by rfl),
      BitVec.extractLsb'_append_extractLsb'_eq_extractLsb' (show 64 = 0 + 64 by rfl), BitVec.extractLsb'_eq_self]
  exact congrArg Code.sample hjoin

/-- Settles O1: a sample keeps its three fields, RAW keeps a byte that no PID takes, and the other words are fixed. -/
theorem decodeInvertsEncode : Obligations.DecodeInvertsEncode := by
  intro i hwf
  cases i with
  | feed t vdp vdm => exact congrArg Except.ok (decodeSample_append t vdp vdm)
  | raw pid => exact congrArg Except.ok (Machine.decodePid_of_not_named (by simpa [Instr.wf] using hwf))
  | _ => rfl

theorem encode_decodeLine (l : BitVec 2) : encode (decodeLine l) = .line l ∧ (decodeLine l).wf = true := by
  revert l; decide

theorem encode_decodeSync {b : Byte} {i : Instr} (h : decodeSync b = .ok i) :
    encode i = .sync b ∧ i.wf = true := by
  unfold decodeSync at h
  split_ifs at h with hfs hls <;> cases h
  · exact ⟨congrArg Code.sync hfs.symm, rfl⟩
  · exact ⟨congrArg Code.sync hls.symm, rfl⟩

theorem encode_decodePid (b : Byte) : encode (decodePid b) = .pid b ∧ (decodePid b).wf = true := by
  revert b; decide +kernel

/-- Settles O2: space by space, the decoder's answer holds the whole word. -/
theorem encodeInvertsDecode : Obligations.EncodeInvertsDecode := by
  intro c i h
  cases c with
  | sample w => cases h; exact ⟨encode_decodeSample w, .inl rfl⟩
  | hint code =>
    cases h
    rcases Machine.hintCode_cases code with rfl | ⟨hint, rfl⟩
    · exact ⟨rfl, .inr rfl⟩
    · exact ⟨rfl, .inl (by cases hint <;> rfl)⟩
  | line l => cases h; exact ⟨(encode_decodeLine l).1, .inl (encode_decodeLine l).2⟩
  | sync b => exact (encode_decodeSync h).imp_right .inl
  | pid b => cases h; exact ⟨(encode_decodePid b).1, .inl (encode_decodePid b).2⟩

theorem tableRow_of_wf {i : Instr} (h : i.wf = true) : (tableRow (encode i)).map Row.mnemonic = some i.mnemonic := by
  cases i with
  | feed t vdp vdm => exact Laws.EncodeMatchesRow.feed t vdp vdm h
  | reset code => exact Laws.EncodeMatchesRow.reset code h
  | raw pid => exact Laws.EncodeMatchesRow.raw pid h
  | _ => rfl

/-- A first byte that is neither SYNC pattern has no row. -/
theorem decodeSync_error {b : Byte} {r : Reject} (h : decodeSync b = .error r) :
    r = .notSync b ∧ b ≠ 0x2a#8 ∧ b ≠ 0xd5#8 := by
  unfold decodeSync at h
  split_ifs at h with hfs hls
  cases h
  exact ⟨rfl, hfs, hls⟩

theorem tableRow_sync_eq_none : ∀ b : Byte, b ≠ 0x2a#8 → b ≠ 0xd5#8 → tableRow (.sync b) = none := by
  decide +kernel

/-- Settles O3: a word that decodes is the word its operation is encoded as, whose row is known; a word that does not
is a first byte of no row. -/
theorem decoderFollowsOpcodeTable : Obligations.DecoderFollowsOpcodeTable := by
  intro c
  split
  next i h =>
    obtain ⟨rfl, hwf | rfl⟩ := encodeInvertsDecode c i h
    · exact tableRow_of_wf hwf
    · rfl
  next r h =>
    cases c with
    | sync b =>
      obtain ⟨hr, hfs, hls⟩ := decodeSync_error h
      exact ⟨tableRow_sync_eq_none b hfs hls, b, rfl, hr, hfs, hls⟩
    | _ => cases h

/-- Two rows of one format under one mask cover different words where their patterns differ. -/
theorem Row.not_covers_both {a b : Row} {c : Code} (hmask : a.mask = b.mask) (hpattern : a.pattern ≠ b.pattern)
    (ha : a.covers c = true) (hb : b.covers c = true) : False := by
  simp only [Row.covers, Bool.and_eq_true, beq_iff_eq] at ha hb
  exact hpattern (ha.2.symm.trans ((congrArg (c.bits &&& ·) hmask).trans hb.2))

/-- A word is of one format only. -/
theorem Row.format_eq_of_covers_both {a b : Row} {c : Code} (ha : a.covers c = true) (hb : b.covers c = true) :
    a.format = b.format := by
  simp only [Row.covers, Bool.and_eq_true, beq_iff_eq] at ha hb
  exact ha.1.trans hb.1.symm

/-- Settles O4: two rows of one format before RAW have one mask and two patterns. -/
theorem opcodeRowsOverlapOnlyInRaw : Obligations.OpcodeRowsOverlapOnlyInRaw := by
  have rows : opcodeTable.Pairwise fun a b =>
      b.mnemonic = "RAW" ∨ a.format ≠ b.format ∨ (a.mask = b.mask ∧ a.pattern ≠ b.pattern) := by decide
  refine rows.imp fun h c ha hb => ?_
  rcases h with hraw | hformat | ⟨hmask, hpattern⟩
  · exact hraw
  · exact absurd (Row.format_eq_of_covers_both ha hb) hformat
  · exact (Row.not_covers_both hmask hpattern ha hb).elim

/-- Settles O5: the sample by the places of its fields, the other words by evaluation. -/
theorem wordsDecodeAsWritten : Obligations.WordsDecodeAsWritten := by
  refine ⟨?_, rfl, rfl, rfl, rfl, rfl, rfl, rfl, rfl, rfl, rfl⟩
  exact congrArg Except.ok (decodeSample_append 0x3eadb5abd74229ff#64 0x4008000000000000#64 0x3fc999999999999a#64)

end Sys2Proof
end

section
/-! PROOFS. What a step answers: the pending input (R17), the ways in which a FEED can end (R87 to R89, R148, R149), and
the registers that a step without a reset does not write or moves only as tabled (R19, R21, R70, R100). -/

namespace Sys2Proof.Machine

/-- Settles O6: the step on a pending input is `exec` of its operation, and only a FEED moves the index. -/
theorem stepRunsDecodedInput : Obligations.StepRunsDecodedInput :=
  fun _ _ => ⟨fun _ hi => ⟨rfl, step_sample hi⟩, fun _ hi => ⟨rfl, step_reset hi⟩⟩

/-- Settles O7: there is nothing to fetch. -/
theorem stepWithoutInputDoesNothing : Obligations.StepWithoutInputDoesNothing := fun _ => step_empty

/-! ## The ways in which a FEED ends -/

/-- How a FEED that answers `u` went: the block was stuck, a fault was raised, or an action was committed. -/
inductive FeedEnd (t vdp vdm : Binary64) (s u : State) : Prop
  | stuck (fault : s.fault ≠ none) (same : u = s)
  | raised (c : FaultCode) (entry : u = raiseFault c s)
  | committed (v : State) (accepted : accepts t vdp vdm s = true)
      (action : stateStep t (levels vdp vdm) { s with sampleT := t } = .ok v)
      (commit : u = feedCommit t (levels vdp vdm) v)

theorem exec_feed_end {t vdp vdm : Binary64} {s u : State} (h : exec (.feed t vdp vdm) s = .next u) :
    FeedEnd t vdp vdm s u := by
  cases hfault : s.fault with
  | some c =>
    cases (exec_feed_stuck t vdp vdm hfault).symm.trans h
    exact .stuck (by simp [hfault]) rfl
  | none =>
    rw [exec_feed_unstuck t vdp vdm hfault] at h
    rcases finish_next h with hok | ⟨c, -, rfl⟩
    · rcases feed_cases t vdp vdm s with ⟨c, -, hf⟩ | ⟨hc, ⟨e, -, hf⟩ | ⟨v, hv, hf⟩⟩ <;> rw [hf] at hok <;> cases hok
      exact .committed v (accepts_iff.mpr ⟨hfault, hc⟩) hv rfl
    · exact .raised c rfl

theorem exec_feed_hint_cfg {t vdp vdm : Binary64} {s u : State} (h : exec (.feed t vdp vdm) s = .next u) :
    u.hint = s.hint ∧ u.cfg = s.cfg := by
  cases exec_feed_end h with
  | stuck _ hu => subst hu; exact ⟨rfl, rfl⟩
  | raised c hu => subst hu; exact ⟨rfl, rfl⟩
  | committed v _ hv hu =>
    have hk := stateStep_actionKept hv
    subst hu
    exact ⟨hk.hint, hk.cfg⟩

/-- A step with a reset pending answers the reset state of the code's hint. -/
theorem step_reset_next {s t : State} {code : BitVec 2} {rest : List Input} (hi : s.inputs = .reset code :: rest)
    (h : step s = .next t) : ∃ hint : Hint, hint.code = code ∧ t = resetState hint { s with inputs := rest } := by
  rw [step_reset hi] at h
  obtain rfl | ⟨hint, rfl⟩ := hintCode_cases code
  · rw [exec_reset_reserved] at h; cases h
  · rw [exec_reset_code] at h; cases h; exact ⟨hint, rfl, rfl⟩

/-- Settles O45: a FEED keeps both, and RESET writes the hint of its code. -/
theorem onlyResetWritesHint : Obligations.OnlyResetWritesHint := by
  intro s t h
  match hi : s.inputs with
  | [] =>
    rw [step_empty hi] at h
    cases h
    exact ⟨rfl, .inl rfl⟩
  | .sample w :: rest =>
    obtain ⟨u, hu, rfl⟩ := step_sample_next hi h
    obtain ⟨hhint, hcfg⟩ := exec_feed_hint_cfg hu
    exact ⟨hcfg, .inl hhint⟩
  | .reset code :: rest =>
    obtain ⟨hint, hcode, rfl⟩ := step_reset_next hi h
    exact ⟨rfl, .inr ⟨code, rest, rfl, hcode⟩⟩

/-- A step without a reset does nothing, or runs the FEED of a sample and moves the index. -/
theorem step_next_unless_reset {s t : State} (h : step s = .next t)
    (hno : ∀ code rest, s.inputs ≠ .reset code :: rest) :
    t = s ∨ ∃ tm vdp vdm rest u, exec (.feed tm vdp vdm) { s with inputs := rest } = .next u ∧
      t = { u with feedIndex := u.feedIndex + 1 } := by
  match hi : s.inputs with
  | [] => rw [step_empty hi] at h; cases h; exact .inl rfl
  | .sample w :: rest =>
    obtain ⟨u, hu, rfl⟩ := step_sample_next hi h
    exact .inr ⟨_, _, _, rest, u, hu, rfl⟩
  | .reset code :: rest => exact absurd hi (hno code rest)

/-! ## The speed -/

theorem openAttempt_speed {tm : Binary64} {lv : Levels} {s t : State} (h : openAttempt tm lv s = .ok t) :
    t.speed = s.speed := by
  rcases openAttempt_cases tm lv s with ⟨-, he⟩ | ⟨e, -, he⟩ <;> rw [he] at h
  · cases h
  · split at h
    · obtain ⟨-, -, rfl⟩ := accumulate_ok h; rfl
    · cases h; rfl

theorem idleStep_speed {tm : Binary64} {lv : Levels} {s t : State} (h : idleStep tm lv s = .ok t) :
    t.speed = s.speed := by
  rcases idleStep_cases tm lv s with ⟨-, he⟩ | ⟨-, he⟩ | ⟨-, -, he⟩ <;> rw [he] at h
  · cases h
  · cases h; rfl
  · exact openAttempt_speed h

theorem windowStep_speed {tm : Binary64} {lv : Levels} {s t : State} (h : windowStep tm lv s = .ok t) :
    t.speed = s.speed := by
  rcases windowStep_cases tm lv s with ⟨-, he⟩ | ⟨-, ⟨e, -, he⟩ | ⟨u, hu, he⟩ | ⟨u, hu, ⟨e, -, he⟩ | ⟨e, -, he⟩⟩⟩ <;>
    rw [he] at h
  · obtain ⟨-, -, rfl⟩ := accumulate_ok h; rfl
  · cases h
  · cases h; exact (symbol_kept hu).speed
  · cases h
  · obtain ⟨-, -, rfl⟩ := accumulate_ok h; exact (symbol_kept hu).speed

/-- R19: only SPEED_STEP writes the speed, and only where it is NONE. -/
theorem stateStep_speed {tm : Binary64} {lv : Levels} {s t : State} (h : stateStep tm lv s = .ok t) :
    t.speed = s.speed ∨ (s.speed = .none ∧ s.st = .unknown) := by
  cases hst : s.st with
  | unknown =>
    rw [stateStep_unknown tm lv hst] at h
    cases h
    by_cases hs : s.speed = .none
    · exact .inr ⟨hs, rfl⟩
    · exact .inl (inferSpeed_known hs)
  | idle => exact .inl (idleStep_speed (stateStep_idle tm lv hst ▸ h))
  | detectSync => exact .inl (windowStep_speed (stateStep_attempt tm lv (.inl hst) ▸ h))
  | receive => exact .inl (windowStep_speed (stateStep_attempt tm lv (.inr hst) ▸ h))
  | gotSe1 => rw [stateStep_transient tm lv (.inl hst)] at h; cases h
  | gotEop => rw [stateStep_transient tm lv (.inr hst)] at h; cases h

/-- Settles O44: a FEED that commits an action writes the speed as that action does, any other keeps it. -/
theorem speedIsFixedWithinRun : Obligations.SpeedIsFixedWithinRun := by
  intro s t h hno
  obtain rfl | ⟨tm, vdp, vdm, rest, u, hu, rfl⟩ := step_next_unless_reset h hno
  · exact .inl rfl
  · cases exec_feed_end hu with
    | stuck _ hu => subst hu; exact .inl rfl
    | raised c hu => subst hu; exact .inl rfl
    | committed v _ hv hu => subst hu; exact (stateStep_speed hv :)

/-! ## The moves of ST -/

/-- What SYMBOL does to ST: the attempt goes on, from DETECT_SYNC possibly in RECEIVE, or it ends in IDLE. -/
inductive StMove (s t : State) : Bool → Prop
  | kept (st : t.st = s.st) : StMove s t true
  | acquired (detect : s.st = .detectSync) (st : t.st = .receive) : StMove s t true
  | ended (st : t.st = .idle) : StMove s t false

theorem syncCheck_stMove {b : Byte} {s t : State} {cont : Bool} (h : syncCheck b s = .ok (t, cont))
    (hst : s.st = .detectSync) : StMove s t cont := by
  rcases syncCheck_cases b s with ⟨-, he⟩ | ⟨-, he⟩ | ⟨-, -, he⟩ <;> rw [he] at h <;> cases h
  · exact .acquired hst rfl
  · exact .ended rfl

/-- Only ST matters of the state before. -/
theorem StMove.congr {s s' t : State} {cont : Bool} (h : StMove s' t cont) (hst : s'.st = s.st) : StMove s t cont := by
  cases h with
  | kept h => exact .kept (h.trans hst)
  | acquired hd h => exact .acquired (hst ▸ hd) h
  | ended h => exact .ended h

theorem pack_stMove {bit : Bool} {s t : State} {cont : Bool} (h : pack bit s = .ok (t, cont)) : StMove s t cont := by
  rcases pack_cases bit s with ⟨-, he⟩ | ⟨-, -, he⟩ | ⟨-, -, -, he⟩ | ⟨-, -, hst, he⟩ <;> rw [he] at h
  · cases h; exact .kept rfl
  · cases h
  · cases h; exact .kept rfl
  · exact (syncCheck_stMove h hst).congr rfl

theorem forward_stMove {lv : Levels} {s t : State} {cont : Bool} (h : forward lv s = .ok (t, cont)) :
    StMove s t cont := by
  rcases forward_cases lv s with ⟨-, he⟩ | ⟨-, -, he⟩ | ⟨-, p, -, he⟩ <;> rw [he] at h
  · exact (pack_stMove h).congr rfl
  · cases h; exact .kept rfl
  · exact (pack_stMove h).congr rfl

theorem symbol_stMove {lv : Levels} {tm : Binary64} {s t : State} {cont : Bool}
    (h : symbol lv tm s = .ok (t, cont)) : StMove s t cont := by
  rcases symbol_cases lv tm s with ⟨-, he⟩ | ⟨-, he⟩ | ⟨-, he⟩ <;> rw [he] at h
  · cases h; exact .ended rfl
  · rcases symDiff_cases lv s with ⟨-, -, hd⟩ | ⟨-, -, hd⟩ | ⟨-, hd⟩ <;> rw [hd] at h
    · cases h
    · cases h; exact .ended rfl
    · exact (forward_stMove h).congr rfl
  · exact (forward_stMove h).congr rfl

/-- An attempt that goes on does so in DETECT_SYNC or RECEIVE. -/
theorem StMove.attempt {s t : State} (h : StMove s t true) (hs : s.st = .detectSync ∨ s.st = .receive) :
    t.st = .detectSync ∨ t.st = .receive := by
  cases h with
  | kept h => rwa [h]
  | acquired _ h => exact .inr h

theorem windowStep_st {tm : Binary64} {lv : Levels} {s t : State} (h : windowStep tm lv s = .ok t) :
    t.st = s.st ∨ (s.st = .detectSync ∧ t.st = .receive) ∨ t.st = .idle := by
  rcases windowStep_cases tm lv s with ⟨-, he⟩ | ⟨-, ⟨e, -, he⟩ | ⟨u, hu, he⟩ | ⟨u, hu, ⟨e, -, he⟩ | ⟨e, -, he⟩⟩⟩ <;>
    rw [he] at h
  · exact .inl (accumulate_bytes_st h).2
  · cases h
  · cases h
    cases symbol_stMove hu with
    | ended h => exact .inr (.inr h)
  · cases h
  · have hst := (accumulate_bytes_st h).2
    cases symbol_stMove hu with
    | kept h => exact .inl (hst.trans h)
    | acquired hd h => exact .inr (.inl ⟨hd, hst.trans h⟩)

/-- The moves of ST that R100 and R101 table. -/
def tabledMoves : List (St × St) :=
  [(.unknown, .idle), (.idle, .detectSync), (.detectSync, .receive), (.detectSync, .idle), (.receive, .idle)]

theorem windowStep_tabled {tm : Binary64} {lv : Levels} {s t : State} (h : windowStep tm lv s = .ok t)
    (hs : s.st = .detectSync ∨ s.st = .receive) : t.st = s.st ∨ (s.st, t.st) ∈ tabledMoves := by
  rcases windowStep_st h with hk | ⟨hd, hr⟩ | hi
  · exact .inl hk
  · rw [hd, hr]; exact .inr (by decide)
  · rcases hs with hs | hs <;> rw [hs, hi] <;> exact .inr (by decide)

theorem stateStep_tabled {tm : Binary64} {lv : Levels} {s t : State} (h : stateStep tm lv s = .ok t) :
    t.st = s.st ∨ (s.st, t.st) ∈ tabledMoves := by
  cases hst : s.st with
  | unknown =>
    rw [stateStep_unknown tm lv hst] at h
    cases h
    rcases speedStep_cases lv s with ⟨-, -, he⟩ | ⟨-, he⟩ <;> rw [he]
    · exact .inr (by simp [tabledMoves])
    · exact .inl hst
  | idle =>
    rw [stateStep_idle tm lv hst] at h
    rcases idleStep_cases tm lv s with ⟨-, he⟩ | ⟨-, he⟩ | ⟨-, -, he⟩ <;> rw [he] at h
    · cases h
    · cases h; exact .inl hst
    · rw [(openAttempt_bytes_st h).2]; exact .inr (by decide)
  | detectSync => exact hst ▸ windowStep_tabled (stateStep_attempt tm lv (.inl hst) ▸ h) (.inl hst)
  | receive => exact hst ▸ windowStep_tabled (stateStep_attempt tm lv (.inr hst) ▸ h) (.inr hst)
  | gotSe1 => rw [stateStep_transient tm lv (.inl hst)] at h; cases h
  | gotEop => rw [stateStep_transient tm lv (.inr hst)] at h; cases h

/-- Settles O51: only an action that FEED commits moves ST, and each moves it as tabled. -/
theorem stateMovesOnlyAsTabled : Obligations.StateMovesOnlyAsTabled := by
  intro s t h hno hne
  obtain rfl | ⟨tm, vdp, vdm, rest, u, hu, rfl⟩ := step_next_unless_reset h hno
  · exact absurd rfl hne
  · cases exec_feed_end hu with
    | stuck _ hu => subst hu; exact absurd rfl hne
    | raised c hu => subst hu; exact absurd rfl hne
    | committed v _ hv hu => subst hu; exact (stateStep_tabled hv :).resolve_left hne

end Sys2Proof.Machine
end

section
/-! PROOFS. The subroutines of a FEED, one equation per case (R91, R95, R97, R104, R109): what each answers where its
case is known. -/

namespace Sys2Proof.Machine

theorem pack_shifts {s : State} (bit : Bool) (hn : s.curN + 1#4 ≠ 8#4) :
    pack bit s = .ok ({ s with curVal := placeBit s.curVal s.curN bit, curN := s.curN + 1#4 }, true) := by
  simp [pack, hn]

theorem pack_full {s : State} (bit : Bool) (hn : s.curN + 1#4 = 8#4)
    (hfull : bufFull s.cfg.bufCap s.bytes = true) : pack bit s = .error (.raise .bufferOverflow) := by
  simp [pack, hn, hfull]

theorem pack_appends {s : State} (bit : Bool) (hn : s.curN + 1#4 = 8#4)
    (hroom : bufFull s.cfg.bufCap s.bytes = false) (hst : s.st ≠ .detectSync) :
    pack bit s = .ok ({ s with
      bytes := bufAppend s.bytes (placeBit s.curVal s.curN bit), curVal := 0#8, curN := 0#4 }, true) := by
  simp [pack, hn, hroom, hst]

theorem pack_first {s : State} (bit : Bool) (hn : s.curN + 1#4 = 8#4)
    (hroom : bufFull s.cfg.bufCap s.bytes = false) (hst : s.st = .detectSync) :
    pack bit s = syncCheck (firstAfterAppend s.bytes (placeBit s.curVal s.curN bit))
      { s with bytes := bufAppend s.bytes (placeBit s.curVal s.curN bit), curVal := 0#8, curN := 0#4 } := by
  simp [pack, hn, hroom, hst]

theorem forward_detect {s : State} (lv : Levels) (hst : s.st = .detectSync) :
    forward lv s = pack (rawBit lv) { s with prevRaw := some (rawBit lv) } := by
  simp [forward, hst]

theorem forward_seeds {s : State} (lv : Levels) (hst : s.st ≠ .detectSync) (hp : s.prevRaw = none) :
    forward lv s = .ok ({ s with prevRaw := some (rawBit lv) }, true) := by
  simp [forward, hst, hp]

theorem forward_nrzi {s : State} {p : Bool} (lv : Levels) (hst : s.st ≠ .detectSync) (hp : s.prevRaw = some p) :
    forward lv s = pack (rawBit lv == p) { s with prevRaw := some (rawBit lv) } := by
  simp [forward, hst, hp]

theorem symDiff_eop {lv : Levels} {s : State} (harmed : se0Armed s.se0Count = true)
    (hj : isJ lv s.speed = .ok true) : symDiff lv s = .ok (gotEopStep { s with se0Count := 0#2 }, false) := by
  simp [symDiff, harmed, hj, Bind.bind, Except.bind]

theorem symDiff_forwards {lv : Levels} {s : State}
    (h : se0Armed s.se0Count = false ∨ isJ lv s.speed = .ok false) :
    symDiff lv s = forward lv { s with se0Count := 0#2 } := by
  cases harmed : se0Armed s.se0Count with
  | false => simp [symDiff, harmed, Bind.bind, Except.bind]
  | true =>
    have hj : isJ lv s.speed = .ok false := h.resolve_left (by simp [harmed])
    simp [symDiff, harmed, hj, Bind.bind, Except.bind]

theorem syncCheck_acquires {b : Byte} {s : State} (h : syncPattern s.speed = .ok b) :
    syncCheck b s = .ok ({ s with
      st := .receive, curVal := 0#8, curN := 0#4,
      prevRaw := if s.cfg.nrziSeed = .firstPostSyncBit then none else s.prevRaw }, true) := by
  simp [syncCheck, h, Bind.bind, Except.bind]

theorem syncCheck_discards {b pattern : Byte} {s : State} (h : syncPattern s.speed = .ok pattern) (hne : b ≠ pattern) :
    syncCheck b s = .ok (discard s, false) := by
  simp [syncCheck, h, hne, Bind.bind, Except.bind]

theorem idleStep_noBaseline {tm : Binary64} {lv : Levels} {s : State} (h : s.prevLv = none) :
    idleStep tm lv s = .error (.model .noBaseline) := by
  simp [idleStep, h]

theorem openAttempt_noSpeed {tm : Binary64} {lv : Levels} {s : State} (h : s.speed = .none) :
    openAttempt tm lv s = .error (.model .noSpeed) := by
  simp [openAttempt, h, Time.addPeriod, Bind.bind, Except.bind]

theorem symDiff_noSpeed {lv : Levels} {s : State} (hspd : s.speed = .none) (harmed : se0Armed s.se0Count = true) :
    symDiff lv s = .error (.model .noSpeed) := by
  simp [symDiff, harmed, hspd, isJ, Bind.bind, Except.bind]

theorem syncCheck_noSpeed {b : Byte} {s : State} (h : s.speed = .none) :
    syncCheck b s = .error (.model .noSpeed) := by
  simp [syncCheck, h, syncPattern, Bind.bind, Except.bind]

end Sys2Proof.Machine
end

section
/-! PROOFS. FEED in detail: the order of its checks (R88, R151), the sample that closes a window (R92, R93, R80, R81),
the records it makes (R98, R142), and the stops of log 9. -/

namespace Sys2Proof.Machine

/-! ## The checks and the faults -/

theorem contractBreach_nonfinite {t vdp vdm : Binary64} {lastT : Option Binary64} (h : finite t = false) :
    contractBreach t vdp vdm lastT = some .nonfiniteTimestamp := by
  simp [contractBreach, h]

theorem contractBreach_nan {t vdp vdm : Binary64} {lastT : Option Binary64} (ht : finite t = true)
    (h : isNaN vdp = true ∨ isNaN vdm = true) : contractBreach t vdp vdm lastT = some .nanVoltage := by
  simp [contractBreach, ht, h]

theorem contractBreach_regression {t vdp vdm u : Binary64} (ht : finite t = true) (hvdp : isNaN vdp = false)
    (hvdm : isNaN vdm = false) (h : flt t u = true) :
    contractBreach t vdp vdm (some u) = some .timestampRegression := by
  simp [contractBreach, ht, hvdp, hvdm, h]

/-- R148: a breach of the contract is a fault entry. -/
theorem exec_feed_breach {t vdp vdm : Binary64} {s : State} {c : FaultCode} (hfault : s.fault = none)
    (h : contractBreach t vdp vdm s.lastT = some c) : exec (.feed t vdp vdm) s = .next (raiseFault c s) := by
  rw [exec_feed_unstuck t vdp vdm hfault]
  simp [feed, h, finish]

/-- An operation that raises no fault but those of a full buffer and of a sum (R74, R38). -/
def RaisesOverflow {α : Type} (r : Except Stop α) : Prop :=
  ∀ c, r = .error (.raise c) → c = .accOverflow ∨ c = .bufferOverflow

theorem syncCheck_raisesOverflow (b : Byte) (s : State) : RaisesOverflow (syncCheck b s) := by
  intro c
  rcases syncCheck_cases b s with ⟨-, he⟩ | ⟨-, he⟩ | ⟨-, -, he⟩ <;> simp [he]

theorem pack_raisesOverflow (bit : Bool) (s : State) : RaisesOverflow (pack bit s) := by
  rcases pack_cases bit s with ⟨-, he⟩ | ⟨-, -, he⟩ | ⟨-, -, -, he⟩ | ⟨-, -, -, he⟩ <;> rw [he]
  · intro c h; cases h
  · intro c h; cases h; exact .inr rfl
  · intro c h; cases h
  · exact syncCheck_raisesOverflow _ _

theorem forward_raisesOverflow (lv : Levels) (s : State) : RaisesOverflow (forward lv s) := by
  rcases forward_cases lv s with ⟨-, he⟩ | ⟨-, -, he⟩ | ⟨-, p, -, he⟩ <;> rw [he]
  · exact pack_raisesOverflow _ _
  · intro c h; cases h
  · exact pack_raisesOverflow _ _

theorem symbol_raisesOverflow (lv : Levels) (tm : Binary64) (s : State) : RaisesOverflow (symbol lv tm s) := by
  rcases symbol_cases lv tm s with ⟨-, he⟩ | ⟨-, he⟩ | ⟨-, he⟩ <;> rw [he]
  · intro c h; cases h
  · rcases symDiff_cases lv s with ⟨-, -, hd⟩ | ⟨-, -, hd⟩ | ⟨-, hd⟩ <;> rw [hd]
    · intro c h; cases h
    · intro c h; cases h
    · exact forward_raisesOverflow _ _
  · exact forward_raisesOverflow _ _

theorem accumulate_raisesOverflow (lv : Levels) (s : State) : RaisesOverflow (accumulate lv s) := by
  rcases accumulate_cases lv s with ⟨-, -, he⟩ | ⟨-, he⟩ <;> rw [he] <;> intro c h <;> cases h
  exact .inl rfl

theorem addPeriod_raisesOverflow (e : Time) (spd : Speed) : RaisesOverflow (e.addPeriod spd) := by
  intro c h
  cases spd <;> cases h

theorem windowStep_raisesOverflow (tm : Binary64) (lv : Levels) (s : State) : RaisesOverflow (windowStep tm lv s) := by
  rcases windowStep_cases tm lv s with ⟨-, he⟩ | ⟨-, ⟨e, hu, he⟩ | ⟨u, -, he⟩ | ⟨u, -, ⟨e, hend, he⟩ | ⟨e, -, he⟩⟩⟩ <;>
    rw [he]
  · exact accumulate_raisesOverflow _ _
  · intro c h; cases h; exact symbol_raisesOverflow _ _ _ c hu
  · intro c h; cases h
  · intro c h; cases h; exact addPeriod_raisesOverflow _ _ c hend
  · exact accumulate_raisesOverflow _ _

theorem idleStep_raisesOverflow (tm : Binary64) (lv : Levels) (s : State) : RaisesOverflow (idleStep tm lv s) := by
  rcases idleStep_cases tm lv s with ⟨-, he⟩ | ⟨-, he⟩ | ⟨-, -, he⟩ <;> rw [he]
  · intro c h; cases h
  · intro c h; cases h
  · rcases openAttempt_cases tm lv s with ⟨-, ho⟩ | ⟨e, -, ho⟩ <;> rw [ho]
    · intro c h; cases h
    · split
      · exact accumulate_raisesOverflow _ _
      · intro c h; cases h

theorem stateStep_raisesOverflow (tm : Binary64) (lv : Levels) (s : State) : RaisesOverflow (stateStep tm lv s) := by
  cases hst : s.st with
  | unknown => rw [stateStep_unknown tm lv hst]; intro c h; cases h
  | idle => rw [stateStep_idle tm lv hst]; exact idleStep_raisesOverflow _ _ _
  | detectSync => rw [stateStep_attempt tm lv (.inl hst)]; exact windowStep_raisesOverflow _ _ _
  | receive => rw [stateStep_attempt tm lv (.inr hst)]; exact windowStep_raisesOverflow _ _ _
  | gotSe1 => rw [stateStep_transient tm lv (.inl hst)]; intro c h; cases h
  | gotEop => rw [stateStep_transient tm lv (.inr hst)]; intro c h; cases h

/-- R151 (5): a sample that is accepted commits, or its action raises an overflow. -/
theorem exec_feed_accepted_fault {t vdp vdm : Binary64} {s v : State} (hacc : accepts t vdp vdm s = true)
    (h : exec (.feed t vdp vdm) s = .next v) (hv : v.fault ≠ none) :
    v.fault = some .accOverflow ∨ v.fault = some .bufferOverflow := by
  rw [exec_feed_accepted hacc] at h
  rcases finish_next h with hok | ⟨c, herr, rfl⟩
  · cases hs : stateStep t (levels vdp vdm) { s with sampleT := t } with
    | error e => rw [hs] at hok; cases hok
    | ok u =>
      rw [hs] at hok
      cases hok
      exact absurd ((stateStep_actionKept hs).fault.trans (accepts_iff.mp hacc).1) hv
  · cases hs : stateStep t (levels vdp vdm) { s with sampleT := t } with
    | ok u => rw [hs] at herr; cases herr
    | error e =>
      rw [hs] at herr
      cases herr
      exact (stateStep_raisesOverflow _ _ _ c hs).imp (congrArg some) (congrArg some)

/-- Settles O9: the first check that fails is the breach, and what is accepted can only overflow. -/
theorem contractBreachOrder : Obligations.ContractBreachOrder := by
  intro s t vdp vdm hfault
  refine ⟨fun ht => exec_feed_breach hfault (contractBreach_nonfinite ht),
    fun ht hv => exec_feed_breach hfault (contractBreach_nan ht hv), fun u ht hvdp hvdm hlast hlt => ?_,
    fun hacc v => exec_feed_accepted_fault hacc⟩
  exact exec_feed_breach hfault (hlast ▸ contractBreach_regression ht hvdp hvdm hlt)

/-! ## The stops of log 9 -/

/-- A stop of the action is the stop of the FEED. -/
theorem exec_feed_model {t vdp vdm : Binary64} {s : State} {f : Fault} (hacc : accepts t vdp vdm s = true)
    (h : stateStep t (levels vdp vdm) { s with sampleT := t } = .error (.model f)) :
    exec (.feed t vdp vdm) s = .fault f := by
  rw [exec_feed_accepted hacc, h]; rfl

/-- Settles O18: each rule that would read a value the spec never reads stops with the fault of its name. -/
theorem unreachableReadsStopByName : Obligations.UnreachableReadsStopByName := by
  refine fun s t vdp vdm => ⟨fun hacc hst => ?_, fun hacc hst hp => ?_, fun p hacc hst hp hne hspd => ?_,
    fun hspd hse0 => ?_, fun hspd => ?_⟩
  · exact exec_feed_model hacc (stateStep_transient (s := { s with sampleT := t }) _ _ hst)
  · apply exec_feed_model hacc
    rw [stateStep_idle (s := { s with sampleT := t }) _ _ hst]
    exact idleStep_noBaseline hp
  · apply exec_feed_model hacc
    rw [stateStep_idle (s := { s with sampleT := t }) _ _ hst, idleStep_edge (s := { s with sampleT := t }) hp hne]
    exact openAttempt_noSpeed hspd
  · have hstop (lv : Levels) : symDiff lv s = .error (.model .noSpeed) := symDiff_noSpeed hspd (decide_eq_true hse0)
    exact ⟨congrArg (finishSub s) (hstop ⟨false, true⟩), congrArg (finishSub s) (hstop ⟨true, false⟩)⟩
  · have hstop (b : Byte) : syncCheck b s = .error (.model .noSpeed) := syncCheck_noSpeed hspd
    exact ⟨congrArg (finishSub s) (hstop 0x2a#8), congrArg (finishSub s) (hstop 0xd5#8)⟩

/-! ## The sample that closes a window -/

/-- The row of a resolved pair is the operation that SYMBOL runs for it (R52, R93). -/
theorem exec_decodeLine (lv : Levels) (s : State) :
    exec (decodeLine (lineCode lv)) s = finishSub s (symbol lv s.sampleT s) := by
  obtain ⟨dp, dm⟩ := lv
  cases dp <;> cases dm <;> rfl

theorem windowStep_closes_error {t : Binary64} {lv : Levels} {s : State} {e : Stop} (hend : s.winEnd.reached t = true)
    (hu : symbol (resolve s) t { s with winActive := false } = .error e) : windowStep t lv s = .error e := by
  simp [windowStep, hend, hu, Bind.bind, Except.bind]

/-- A window that closes in an attempt that goes on is followed by the next, with the closing sample in it (R81, R83).
-/
theorem windowStep_reopens {t : Binary64} {lv : Levels} {s u : State} (hend : s.winEnd.reached t = true)
    (hu : symbol (resolve s) t { s with winActive := false } = .ok (u, true)) :
    windowStep t lv s = (s.winEnd.addPeriod s.speed).bind fun e => accumulate lv (openWindow e u) := by
  have hspd : u.speed = s.speed := (symbol_kept hu).speed
  simp [windowStep, hend, hu, Bind.bind, Except.bind, hspd]

/-- In an attempt FEED is WINDOW_STEP and the commit. -/
theorem exec_feed_attempt {s : State} {t vdp vdm : Binary64} (h : accepts t vdp vdm s = true)
    (hin : inAttempt s = true) :
    exec (.feed t vdp vdm) s =
      finish s ((windowStep t (levels vdp vdm) { s with sampleT := t }).map (feedCommit t (levels vdp vdm))) := by
  rw [exec_feed_accepted h, stateStep_attempt (s := { s with sampleT := t }) t _ (inAttempt_iff.mp hin)]

section Closing
variable {s u : State} {t vdp vdm : Binary64} (h : accepts t vdp vdm s = true) (hin : inAttempt s = true)
  (hend : s.winEnd.reached t = true)
include h hin hend

/-- A stop of the line symbol is the stop of the FEED. -/
theorem exec_feed_symbol_error {e : Stop}
    (hu : symbol (resolve s) t { s with winActive := false, sampleT := t } = .error e) :
    exec (.feed t vdp vdm) s = finish s (.error e) := by
  rw [exec_feed_attempt h hin, windowStep_closes_error (s := { s with sampleT := t }) hend hu]
  rfl

variable (hu : symbol (resolve s) t { s with winActive := false, sampleT := t } = .ok (u, true))
include hu

/-- An attempt that goes on closes its window, and FEED answers as the opening of the next one does. -/
theorem exec_feed_reopens :
    exec (.feed t vdp vdm) s = finish s (((s.winEnd.addPeriod s.speed).bind fun e =>
      accumulate (levels vdp vdm) (openWindow e u)).map (feedCommit t (levels vdp vdm))) := by
  rw [exec_feed_attempt h hin, windowStep_reopens (s := { s with sampleT := t }) hend hu]

theorem exec_feed_reopens_within {e : Time} (he : s.winEnd.addPeriod s.speed = .ok e)
    (hfits : accOverflows s.cfg.accBits 1 = false) :
    exec (.feed t vdp vdm) s = .next (feedCommit t (levels vdp vdm) { openWindow e u with
      sumDp := weight (levels vdp vdm).dp, sumDm := weight (levels vdp vdm).dm }) := by
  have hcfg : u.cfg = s.cfg := (symbol_kept hu).cfg
  have hfirst := accumulate_first (lv := levels vdp vdm) (s := openWindow e u) rfl rfl (hcfg ▸ hfits)
  rw [exec_feed_reopens h hin hend hu, he]
  exact congrArg (fun r => finish s (Except.map (feedCommit t (levels vdp vdm)) r)) hfirst

theorem exec_feed_reopens_past (hspd : s.speed ≠ .none) (hpast : accOverflows s.cfg.accBits 1 = true) :
    exec (.feed t vdp vdm) s = .next (raiseFault .accOverflow s) := by
  have hcfg : u.cfg = s.cfg := (symbol_kept hu).cfg
  obtain ⟨e, he⟩ := addPeriod_ok hspd s.winEnd
  have hfirst := accumulate_first_past (lv := levels vdp vdm) (s := openWindow e u) rfl rfl (hcfg ▸ hpast)
  rw [exec_feed_reopens h hin hend hu, he]
  exact congrArg (fun r => finish s (Except.map (feedCommit t (levels vdp vdm)) r)) hfirst

theorem exec_feed_reopens_noSpeed (hspd : s.speed = .none) : exec (.feed t vdp vdm) s = .fault .noSpeed := by
  rw [exec_feed_reopens h hin hend hu, hspd]
  rfl

end Closing

/-- Settles O15: FEED runs SYMBOL on the resolved pair as its row does; by what SYMBOL answers it ends with the stop,
with the ended attempt, or with the next window. -/
theorem closingSampleRunsLineRow : Obligations.ClosingSampleRunsLineRow := by
  intro s t vdp vdm h hin hend lv
  rw [exec_decodeLine]
  cases hu : symbol (resolve s) t { s with winActive := false, sampleT := t } with
  | error e =>
    have hstop := exec_feed_symbol_error h hin hend hu
    cases e with
    | model f => exact hstop
    | raise c =>
      refine ⟨fun c' hc => ?_, fun hnone => (nomatch hnone), fun hnone => (nomatch hnone)⟩
      cases hc
      exact hstop
  | ok r =>
    obtain ⟨u, cont⟩ := r
    have hnone : u.fault = none := (symbol_kept hu).fault.trans (accepts_iff.mp h).1
    refine ⟨fun c hc => by simp [hnone] at hc, fun _ hidle => ?_, fun _ hgoes => ?_⟩ <;> cases cont
    · exact exec_feed_ends h hin hend hu
    · have hst := (symbol_stMove hu).attempt (inAttempt_iff.mp hin)
      simp [hidle] at hst
    · cases symbol_stMove hu with
      | ended hidle => exact absurd hidle hgoes
    · exact ⟨fun e he hfits => exec_feed_reopens_within h hin hend hu he hfits,
        fun hspd hpast => exec_feed_reopens_past h hin hend hu hspd hpast,
        fun hspd => exec_feed_reopens_noSpeed h hin hend hu hspd⟩

/-! ## The records -/

/-- The record of a window that the sample at `tm` closes (R94, R98). -/
inductive WindowRecord (tm : Binary64) (s u : State) : Prop
  | diag (se1 : resolve s = ⟨true, true⟩) (log : u.log = s.log ++ [(s.feedIndex, .diag .se1Detected tm)])
  | packet (j : isJ (resolve s) s.speed = .ok true) (armed : se0Armed s.se0Count = true) (long : 1 < s.bytes.length)
      (log : u.log = s.log ++ [(s.feedIndex, .packet (classify s.cfg.crc5Order s.bytes))])

theorem symbol_record {tm : Binary64} {s u : State} {cont : Bool}
    (h : symbol (resolve s) tm { s with winActive := false } = .ok (u, cont)) :
    u.log = s.log ∨ WindowRecord tm s u := by
  rcases symbol_cases (resolve s) tm { s with winActive := false } with ⟨hlv, he⟩ | ⟨-, he⟩ | ⟨-, he⟩ <;> rw [he] at h
  · cases h; exact .inr (.diag hlv rfl)
  · rcases symDiff_cases (resolve s) { s with winActive := false } with ⟨-, -, hd⟩ | ⟨harmed, hj, hd⟩ | ⟨-, hd⟩ <;>
      rw [hd] at h
    · cases h
    · cases h
      rw [gotEopStep_eq]
      by_cases hlen : 1 < s.bytes.length
      · exact .inr (.packet hj harmed hlen (if_pos hlen))
      · exact .inl (if_neg hlen)
    · exact .inl (forward_log h :)
  · exact .inl (forward_log h :)

theorem windowStep_record {tm : Binary64} {lv : Levels} {s t : State} (h : windowStep tm lv s = .ok t) :
    t.log = s.log ∨ (s.winEnd.reached tm = true ∧ WindowRecord tm s t) := by
  rcases windowStep_cases tm lv s with
    ⟨-, he⟩ | ⟨hend, ⟨e, -, he⟩ | ⟨u, hu, he⟩ | ⟨u, hu, ⟨e, -, he⟩ | ⟨e, -, he⟩⟩⟩ <;> rw [he] at h
  · exact .inl (accumulate_log h)
  · cases h
  · cases h; exact (symbol_record hu).imp_right fun hr => ⟨hend, hr⟩
  · cases h
  · have hlog : t.log = u.log := (accumulate_log h :)
    rcases symbol_record hu with hk | ⟨hse1, hr⟩ | ⟨hj, harmed, hlen, hr⟩
    · exact .inl (hlog.trans hk)
    · exact .inr ⟨hend, .diag hse1 (hlog.trans hr)⟩
    · exact .inr ⟨hend, .packet hj harmed hlen (hlog.trans hr)⟩

theorem stateStep_record {tm : Binary64} {lv : Levels} {s t : State} (h : stateStep tm lv s = .ok t) :
    t.log = s.log ∨ (inAttempt s = true ∧ s.winEnd.reached tm = true ∧ WindowRecord tm s t) := by
  have attempt (hst : s.st = .detectSync ∨ s.st = .receive) :
      t.log = s.log ∨ (inAttempt s = true ∧ s.winEnd.reached tm = true ∧ WindowRecord tm s t) :=
    (windowStep_record (stateStep_attempt tm lv hst ▸ h)).imp_right fun hr => ⟨inAttempt_iff.mpr hst, hr⟩
  cases hst : s.st with
  | unknown => rw [stateStep_unknown tm lv hst] at h; cases h; exact .inl rfl
  | idle => exact .inl (idleStep_log (stateStep_idle tm lv hst ▸ h))
  | detectSync => exact attempt (.inl hst)
  | receive => exact attempt (.inr hst)
  | gotSe1 => rw [stateStep_transient tm lv (.inl hst)] at h; cases h
  | gotEop => rw [stateStep_transient tm lv (.inr hst)] at h; cases h

/-- The sample is accepted and closes a window of an attempt. -/
def Closes (t vdp vdm : Binary64) (s : State) : Prop :=
  accepts t vdp vdm s = true ∧ inAttempt s = true ∧ s.winEnd.reached t = true

theorem exec_feed_record {t vdp vdm : Binary64} {s u : State} (h : exec (.feed t vdp vdm) s = .next u) :
    u.log = s.log ∨ (Closes t vdp vdm s ∧ WindowRecord t s u) := by
  cases exec_feed_end h with
  | stuck _ hu => subst hu; exact .inl rfl
  | raised c hu => subst hu; exact .inl rfl
  | committed v hacc hv hu =>
    subst hu
    rcases stateStep_record hv with hk | ⟨hin, hend, hr⟩
    · exact .inl hk
    · refine .inr ⟨⟨hacc, hin, hend⟩, ?_⟩
      rcases hr with ⟨hse1, hlog⟩ | ⟨hj, harmed, hlen, hlog⟩
      · exact .diag hse1 hlog
      · exact .packet hj harmed hlen hlog

theorem isJ_iff {lv : Levels} {spd : Speed} :
    isJ lv spd = .ok true ↔ (spd = .fs ∧ lv = ⟨true, false⟩) ∨ (spd = .ls ∧ lv = ⟨false, true⟩) := by
  obtain ⟨dp, dm⟩ := lv
  cases spd <;> simp [isJ]

/-- Settles O49: a record is that of the window the sample closes, and the window that is due its record makes it. -/
theorem recordsExactlyOnEopOrSe1 : Obligations.RecordsExactlyOnEopOrSe1 := by
  intro s u t vdp vdm h closes
  rw [← isJ_iff]
  refine ⟨⟨fun ⟨p, hp⟩ => ?_, fun ⟨⟨hacc, hin, hend⟩, hse0, hlen, hj⟩ => ?_⟩,
    ⟨fun ⟨x, hx⟩ => ?_, fun ⟨⟨hacc, hin, hend⟩, hse1⟩ => ?_⟩⟩
  · rcases exec_feed_record h with hk | ⟨hc, ⟨-, hlog⟩ | ⟨hj, harmed, hlen, -⟩⟩
    · simp [hk] at hp
    · simp [hlog] at hp
    · exact ⟨hc, of_decide_eq_true harmed, hlen, hj⟩
  · have hrun := exec_feed_ends hacc hin hend (symbol_eop (decide_eq_true hse0) hj)
    cases h.symm.trans hrun
    exact ⟨_, by rw [feedCommit_log, gotEopStep_eq]; exact if_pos hlen⟩
  · rcases exec_feed_record h with hk | ⟨hc, ⟨hse1, -⟩ | ⟨-, -, -, hlog⟩⟩
    · simp [hk] at hx
    · exact ⟨hc, hse1⟩
    · simp [hlog] at hx
  · have hrun := exec_feed_ends hacc hin hend (u := symSe1 t { s with winActive := false, sampleT := t })
      (by rw [hse1]; rfl)
    cases h.symm.trans hrun
    exact ⟨t, rfl⟩

end Sys2Proof.Machine
end

section
/-! PROOFS. The invariant (Safety.lean) is kept by every step, and from a state that meets it no step stops with a fault
of the model itself (log 9). -/

namespace Sys2Proof.Machine

/-! ## The invariant by phase: outside an attempt, or in one -/

/-- What holds of the window, the buffer and the byte accumulator outside an attempt (R27, R29, R99). -/
structure Quiet (s : State) : Prop where
  st : s.st = .unknown ∨ s.st = .idle
  winActive : s.winActive = false
  bufActive : s.bufActive = false
  bytes : s.bytes = []
  curVal : s.curVal = 0#8
  curN : s.curN = 0#4
  prevRaw : s.prevRaw = none

theorem Ended.quiet {s : State} (h : Ended s) : Quiet s := { h with st := .inr h.st }

/-- A state between two actions is outside an attempt, or in one with its window open. -/
inductive Phase (s : State) : Prop
  | quiet (h : Quiet s)
  | going (h : Going s) (winActive : s.winActive = true)

theorem State.Inv.st_outside {s : State} (h : s.Inv) (hout : inAttempt s = false) :
    s.st = .unknown ∨ s.st = .idle := by
  cases hst : s.st with
  | unknown => exact .inl rfl
  | idle => exact .inr rfl
  | detectSync => simp [inAttempt, hst] at hout
  | receive => simp [inAttempt, hst] at hout
  | gotSe1 => exact absurd hst h.st_held.1
  | gotEop => exact absurd hst h.st_held.2

theorem State.Inv.phase {s : State} (h : s.Inv) : Phase s := by
  cases hin : inAttempt s with
  | true => exact .going (going_of_inv h (inAttempt_iff.mp hin)) (h.window_active.trans hin)
  | false =>
    obtain ⟨hbytes, hval, hn, hraw⟩ := h.outside hin
    have hwin := h.window_active.trans hin
    exact .quiet ⟨h.st_outside hin, hwin, h.buffer_active.trans hwin, hbytes, hval, hn, hraw⟩

/-- The invariant, from the phase and what is said of every state. -/
theorem inv_of_phase {s : State} (phase : Phase s) (se0_range : s.se0Count.toNat ≤ 2)
    (known : s.st ≠ .unknown → s.speed ≠ .none ∧ s.prevLv ≠ none)
    (history : s.prevLv.isSome = s.lastT.isSome ∧ ∀ u, s.lastT = some u → finite u = true)
    (sums : accOverflows s.cfg.accBits s.sumDp = false ∧ accOverflows s.cfg.accBits s.sumDm = false)
    (forced : s.hint ≠ .auto → s.speed = s.hint.speed)
    (log_order : s.log.Pairwise (fun a b => a.1 < b.1) ∧ ∀ e ∈ s.log, e.1 < s.feedIndex)
    (packets : ∀ n p, (n, Output.packet p) ∈ s.log → 2 ≤ p.rawBytes.length) : s.Inv := by
  cases phase with
  | quiet h =>
    have hout : inAttempt s = false := by rcases h.st with hst | hst <;> simp [inAttempt, hst]
    have hdetect : s.st ≠ .detectSync := by rcases h.st with hst | hst <;> simp [hst]
    have hreceive : s.st ≠ .receive := by rcases h.st with hst | hst <;> simp [hst]
    exact {
      st_held := by rcases h.st with hst | hst <;> simp [hst]
      window_active := h.winActive.trans hout.symm
      buffer_active := h.bufActive.trans h.winActive.symm
      bytes_detect := fun hst => absurd hst hdetect
      bytes_receive := fun hst => absurd hst hreceive
      outside := fun _ => ⟨h.bytes, h.curVal, h.curN, h.prevRaw⟩
      bytes_cap := h.bytes ▸ empty_wf _
      partial_byte := by simp [h.curVal, h.curN]
      seed := fun _ hst => absurd hst hreceive
      se0_range, known, history, sums, forced, log_order, packets }
  | going h hwin =>
    have hin : inAttempt s = true := inAttempt_iff.mpr h.st
    exact { h with
      st_held := by rcases h.st with hst | hst <;> simp [hst]
      window_active := hwin.trans hin.symm
      buffer_active := h.bufActive.trans hwin.symm
      outside := fun hout => by simp [hin] at hout
      known, history, sums, forced, log_order, packets }

theorem hint_speed_ne_none {hint : Hint} (h : hint ≠ .auto) : hint.speed ≠ .none := by
  cases hint <;> simp_all [Hint.speed]

theorem resetState_inv {s : State} (h : s.Inv) (hint : Hint) : (resetState hint s).Inv :=
  inv_of_phase (.quiet ⟨.inl rfl, rfl, rfl, rfl, rfl, rfl, rfl⟩) (by simp) (fun hst => absurd rfl hst)
    (by simp) ⟨accOverflows_zero _, accOverflows_zero _⟩ (fun _ => rfl) h.log_order h.packets

/-- Settles O41: the state after reset is quiet, and its log is empty. -/
theorem invAtReset : Obligations.InvAtReset :=
  inv_of_phase (.quiet ⟨.inl rfl, rfl, rfl, rfl, rfl, rfl, rfl⟩) (by simp [State.reset]) (fun hst => absurd rfl hst)
    (by simp [State.reset]) ⟨rfl, rfl⟩ (fun hhint => absurd rfl hhint) (by simp [State.reset]) (by simp [State.reset])

/-! ## What an action leaves for the commit -/

/-- What holds of the state between the action of a FEED and its commit: the invariant but for the history and the
records, which the commit and the index after it complete. -/
structure Acted (v : State) : Prop where
  phase : Phase v
  se0_range : v.se0Count.toNat ≤ 2
  speed : v.st ≠ .unknown → v.speed ≠ .none
  sums : accOverflows v.cfg.accBits v.sumDp = false ∧ accOverflows v.cfg.accBits v.sumDm = false
  forced : v.hint ≠ .auto → v.speed = v.hint.speed

theorem State.Inv.acted {s : State} (h : s.Inv) : Acted s :=
  ⟨h.phase, h.se0_range, fun hst => (h.known hst).1, h.sums, h.forced⟩

/-- ACCUMULATE writes the sums alone, and within ACC_BITS. -/
theorem Acted.accumulate {u v : State} {lv : Levels} (h : Acted u) (hv : Machine.accumulate lv u = .ok v) :
    Acted v := by
  obtain ⟨hdp, hdm, rfl⟩ := accumulate_ok hv
  refine { h with phase := ?_, sums := ⟨hdp, hdm⟩ }
  cases h.phase with
  | quiet hq => exact .quiet { hq with }
  | going hg hwin => exact .going { hg with } hwin

theorem speedStep_acted {s : State} (h : s.Inv) (hst : s.st = .unknown) (lv : Levels) : Acted (speedStep lv s) := by
  have hforced : s.hint ≠ .auto → inferSpeed lv s.speed = s.hint.speed := fun hhint => by
    rw [h.forced hhint]; exact inferSpeed_known (hint_speed_ne_none hhint)
  have hquiet : Quiet s := by
    cases h.phase with
    | quiet hq => exact hq
    | going hg _ => rcases hg.st with hs | hs <;> simp [hst] at hs
  rcases speedStep_cases lv s with ⟨hspd, -, he⟩ | ⟨-, he⟩ <;> rw [he]
  · exact ⟨.quiet { hquiet with st := .inr rfl }, h.se0_range, fun _ => hspd, h.sums, hforced⟩
  · exact ⟨.quiet { hquiet with }, h.se0_range, fun hne => absurd hst hne, h.sums, hforced⟩

/-- A new attempt has an open window, nothing in it, and an empty buffer (R91). -/
theorem attemptAt_acted {s : State} (h : s.Inv) (hspd : s.speed ≠ .none) (e : Time) : Acted (attemptAt e s) where
  phase := .going ⟨.inl rfl, hspd, rfl, fun _ => rfl, fun hst => (nomatch hst), empty_wf _, by simp [attemptAt],
    by simp [attemptAt], fun _ hst => (nomatch hst)⟩ rfl
  se0_range := by simp [attemptAt]
  speed := fun _ => hspd
  sums := ⟨accOverflows_zero _, accOverflows_zero _⟩
  forced := h.forced

theorem idleStep_acted {tm : Binary64} {lv : Levels} {s v : State} (h : s.Inv) (hst : s.st = .idle)
    (hv : idleStep tm lv s = .ok v) : Acted v := by
  have hspd : s.speed ≠ .none := (h.known (by simp [hst])).1
  rcases idleStep_cases tm lv s with ⟨-, he⟩ | ⟨-, he⟩ | ⟨-, -, he⟩ <;> rw [he] at hv
  · cases hv
  · cases hv; exact h.acted
  · obtain ⟨e, hend⟩ : ∃ e, windowEnd s.cfg.timeArith s.speed tm 1 = .ok e := addPeriod_ok hspd _
    rw [openAttempt_at hend] at hv
    split at hv
    · exact (attemptAt_acted h hspd e).accumulate hv
    · cases hv; exact attemptAt_acted h hspd e

theorem windowStep_acted {tm : Binary64} {lv : Levels} {s v : State} (h : s.Inv)
    (hst : s.st = .detectSync ∨ s.st = .receive) (hv : windowStep tm lv s = .ok v) : Acted v := by
  have hg : Going { s with winActive := false } := { going_of_inv h hst with }
  rcases windowStep_cases tm lv s with ⟨-, he⟩ | ⟨-, ⟨e, -, he⟩ | ⟨u, hu, he⟩ | ⟨u, hu, ⟨e, -, he⟩ | ⟨e, -, he⟩⟩⟩ <;>
    rw [he] at hv
  · exact h.acted.accumulate hv
  · cases hv
  · cases hv
    obtain ⟨⟨hk, -, hend⟩, hse0, -⟩ := symbol_answers hu hg
    refine ⟨.quiet (hend rfl).quiet, hse0, fun _ => hk.speed ▸ hg.speed, ?_, ?_⟩
    · rw [hk.cfg, hk.sumDp, hk.sumDm]; exact h.sums
    · rw [hk.hint, hk.speed]; exact h.forced
  · cases hv
  · obtain ⟨⟨hk, hgoes, -⟩, hse0, -⟩ := symbol_answers hu hg
    obtain ⟨hgoing, -, -⟩ := hgoes rfl
    have hforced : u.hint ≠ .auto → u.speed = u.hint.speed := by rw [hk.hint, hk.speed]; exact h.forced
    exact Acted.accumulate (u := openWindow e u) ⟨.going { hgoing with } rfl, hse0, fun _ => hgoing.speed,
      ⟨accOverflows_zero _, accOverflows_zero _⟩, hforced⟩ hv

theorem stateStep_acted {tm : Binary64} {lv : Levels} {s v : State} (h : s.Inv)
    (hv : stateStep tm lv s = .ok v) : Acted v := by
  cases hst : s.st with
  | unknown => rw [stateStep_unknown tm lv hst] at hv; cases hv; exact speedStep_acted h hst lv
  | idle => exact idleStep_acted h hst (stateStep_idle tm lv hst ▸ hv)
  | detectSync => exact windowStep_acted h (.inl hst) (stateStep_attempt tm lv (.inl hst) ▸ hv)
  | receive => exact windowStep_acted h (.inr hst) (stateStep_attempt tm lv (.inr hst) ▸ hv)
  | gotSe1 => exact absurd hst h.st_held.1
  | gotEop => exact absurd hst h.st_held.2

/-! ## The records -/

/-- One more record, of the present FEED, keeps the order (R45). -/
theorem LogMove.log_order {before : List (Nat × Output)} {i : Nat} {v : State} (h : LogMove before i v)
    (horder : before.Pairwise fun a b => a.1 < b.1) (hlt : ∀ e ∈ before, e.1 < i) :
    v.log.Pairwise (fun a b => a.1 < b.1) ∧ ∀ e ∈ v.log, e.1 < i + 1 := by
  cases h with
  | kept hlog => rw [hlog]; exact ⟨horder, fun e he => Nat.lt_succ_of_lt (hlt e he)⟩
  | appended o hlog =>
    rw [hlog]
    refine ⟨List.pairwise_append.mpr ⟨horder, List.pairwise_singleton .., by simpa using hlt⟩, fun e he => ?_⟩
    rcases List.mem_append.mp he with he | he
    · exact Nat.lt_succ_of_lt (hlt e he)
    · obtain rfl := List.mem_singleton.mp he; exact Nat.lt_succ_self _

/-- The record of a window is a diagnostic, or a packet of more than one byte (R98). -/
theorem WindowRecord.packets {tm : Binary64} {s v : State} (h : WindowRecord tm s v)
    (hs : ∀ n p, (n, Output.packet p) ∈ s.log → 2 ≤ p.rawBytes.length) :
    ∀ n p, (n, Output.packet p) ∈ v.log → 2 ≤ p.rawBytes.length := by
  intro n p hp
  cases h with
  | diag _ hlog =>
    rw [hlog] at hp
    rcases List.mem_append.mp hp with hp | hp
    · exact hs n p hp
    · cases List.mem_singleton.mp hp
  | packet _ _ hlong hlog =>
    rw [hlog] at hp
    rcases List.mem_append.mp hp with hp | hp
    · exact hs n p hp
    · cases List.mem_singleton.mp hp
      rw [everyRecordKeepsRawBytes]
      exact hlong

/-! ## The commit and the step -/

/-- FEED_COMMIT and the index after it complete the invariant (R89, R45). -/
theorem commit_inv {s v : State} {tm : Binary64} {lv : Levels} (h : s.Inv) (hv : stateStep tm lv s = .ok v)
    (ht : finite tm = true) : ({ feedCommit tm lv v with feedIndex := v.feedIndex + 1 } : State).Inv := by
  have hacted := stateStep_acted h hv
  have hidx : v.feedIndex = s.feedIndex := (stateStep_actionKept hv).feedIndex
  have horder := (stateStep_logMove hv).log_order h.log_order.1 h.log_order.2
  refine inv_of_phase ?_ hacted.se0_range (fun hst => ⟨hacted.speed hst, by simp⟩) ⟨rfl, fun u hu => ?_⟩ hacted.sums
    hacted.forced (hidx ▸ horder) ?_
  · cases hacted.phase with
    | quiet hq => exact .quiet { hq with }
    | going hg hwin => exact .going { hg with } hwin
  · cases hu; exact ht
  · rcases stateStep_record hv with hlog | ⟨-, -, hrecord⟩
    · exact fun n p hp => h.packets n p (hlog ▸ hp)
    · exact hrecord.packets h.packets

/-- The latched timestamp is no part of the invariant. -/
theorem State.Inv.latch {s : State} (h : s.Inv) (tm : Binary64) : ({ s with sampleT := tm } : State).Inv := { h with }

theorem finite_of_accepts {t vdp vdm : Binary64} {s : State} (h : accepts t vdp vdm s = true) : finite t = true :=
  (contractBreach_eq_none_iff.mp (accepts_iff.mp h).2).1

theorem exec_feed_inv {t vdp vdm : Binary64} {s u : State} (h : s.Inv) (hu : exec (.feed t vdp vdm) s = .next u) :
    ({ u with feedIndex := u.feedIndex + 1 } : State).Inv := by
  cases exec_feed_end hu with
  | stuck _ hsame => subst hsame; exact inv_advance h
  | raised c hentry => subst hentry; exact inv_advance (inv_raiseFault h c)
  | committed v hacc hv hcommit =>
    subst hcommit
    exact commit_inv (h.latch t) hv (finite_of_accepts hacc)

/-- Settles O42: a FEED keeps the invariant through its action and its commit, and RESET establishes it. -/
theorem stepKeepsInv : Obligations.StepKeepsInv := by
  intro s t h hstep
  match hi : s.inputs with
  | [] => rw [step_empty hi] at hstep; cases hstep; exact h
  | .sample w :: rest =>
    obtain ⟨u, hu, rfl⟩ := step_sample_next hi hstep
    exact exec_feed_inv (inv_inputs h rest) hu
  | .reset code :: rest =>
    obtain ⟨hint, -, rfl⟩ := step_reset_next hi hstep
    exact resetState_inv (inv_inputs h rest) hint

/-! ## No fault of the model itself -/

/-- An operation that answers, or raises a fault of the block (R147). -/
def NoModelFault {α : Type} (r : Except Stop α) : Prop := ∀ f, r ≠ .error (.model f)

theorem syncCheck_noModelFault {b : Byte} {s : State} (h : s.speed ≠ .none) : NoModelFault (syncCheck b s) := by
  intro f
  rcases syncCheck_cases b s with ⟨hs, -⟩ | ⟨-, he⟩ | ⟨-, -, he⟩
  · exact absurd hs h
  all_goals simp [he]

theorem pack_noModelFault {bit : Bool} {s : State} (h : s.speed ≠ .none) : NoModelFault (pack bit s) := by
  intro f
  rcases pack_cases bit s with ⟨-, he⟩ | ⟨-, -, he⟩ | ⟨-, -, -, he⟩ | ⟨-, -, -, he⟩ <;> rw [he]
  · simp
  · simp
  · simp
  · exact syncCheck_noModelFault (by exact h) f

theorem forward_noModelFault {lv : Levels} {s : State} (h : s.speed ≠ .none) : NoModelFault (forward lv s) := by
  intro f
  rcases forward_cases lv s with ⟨-, he⟩ | ⟨-, -, he⟩ | ⟨-, p, -, he⟩ <;> rw [he]
  · exact pack_noModelFault (by exact h) f
  · simp
  · exact pack_noModelFault (by exact h) f

theorem symbol_noModelFault {lv : Levels} {tm : Binary64} {s : State} (h : s.speed ≠ .none) :
    NoModelFault (symbol lv tm s) := by
  intro f
  rcases symbol_cases lv tm s with ⟨-, he⟩ | ⟨-, he⟩ | ⟨-, he⟩ <;> rw [he]
  · simp
  · rcases symDiff_cases lv s with ⟨-, hs, -⟩ | ⟨-, -, hd⟩ | ⟨-, hd⟩
    · exact absurd hs h
    · simp [hd]
    · rw [hd]; exact forward_noModelFault (by exact h) f
  · exact forward_noModelFault (by exact h) f

theorem windowStep_noModelFault {tm : Binary64} {lv : Levels} {s : State} (h : s.speed ≠ .none) :
    NoModelFault (windowStep tm lv s) := by
  intro f
  rcases windowStep_cases tm lv s with ⟨-, he⟩ | ⟨-, ⟨e, hu, he⟩ | ⟨u, -, he⟩ | ⟨u, hu, ⟨e, hend, he⟩ | ⟨e, -, he⟩⟩⟩ <;>
    rw [he]
  · exact accumulate_ne_model lv s f
  · intro hf; cases hf; exact symbol_noModelFault (by exact h) f hu
  · simp
  · have hspd : u.speed ≠ .none := (symbol_kept hu).speed ▸ h
    obtain ⟨e', hok⟩ := addPeriod_ok hspd s.winEnd
    simp [hok] at hend
  · exact accumulate_ne_model lv _ f

theorem idleStep_noModelFault {tm : Binary64} {lv : Levels} {s : State} (hspd : s.speed ≠ .none)
    (hprev : s.prevLv ≠ none) : NoModelFault (idleStep tm lv s) := by
  intro f
  rcases idleStep_cases tm lv s with ⟨hp, -⟩ | ⟨-, he⟩ | ⟨-, -, he⟩
  · exact absurd hp hprev
  · simp [he]
  · obtain ⟨e, hend⟩ : ∃ e, windowEnd s.cfg.timeArith s.speed tm 1 = .ok e := addPeriod_ok hspd _
    rw [he, openAttempt_at hend]
    split
    · exact accumulate_ne_model lv _ f
    · simp

theorem stateStep_noModelFault {tm : Binary64} {lv : Levels} {s : State} (h : s.Inv) :
    NoModelFault (stateStep tm lv s) := by
  cases hst : s.st with
  | unknown => rw [stateStep_unknown tm lv hst]; intro f; simp
  | idle =>
    obtain ⟨hspd, hprev⟩ := h.known (by simp [hst])
    rw [stateStep_idle tm lv hst]
    exact idleStep_noModelFault hspd hprev
  | detectSync =>
    rw [stateStep_attempt tm lv (.inl hst)]
    exact windowStep_noModelFault (h.known (by simp [hst])).1
  | receive =>
    rw [stateStep_attempt tm lv (.inr hst)]
    exact windowStep_noModelFault (h.known (by simp [hst])).1
  | gotSe1 => exact absurd hst h.st_held.1
  | gotEop => exact absurd hst h.st_held.2

theorem NoModelFault.finish_next {r : Except Stop State} (h : NoModelFault r) (before : State) :
    ∃ u, finish before r = .next u := by
  match r, h with
  | .ok u, _ => exact ⟨u, rfl⟩
  | .error (.raise c), _ => exact ⟨raiseFault c before, rfl⟩
  | .error (.model f), h => exact absurd rfl (h f)

theorem feed_noModelFault {t vdp vdm : Binary64} {s : State} (h : s.Inv) : NoModelFault (feed t vdp vdm s) := by
  intro f
  rcases feed_cases t vdp vdm s with ⟨c, -, hf⟩ | ⟨-, ⟨e, he, hf⟩ | ⟨v, -, hf⟩⟩ <;> rw [hf]
  · simp
  · rw [← he]; exact stateStep_noModelFault (h.latch t) f
  · simp

theorem exec_feed_answers {s : State} (h : s.Inv) (t vdp vdm : Binary64) :
    ∃ u, exec (.feed t vdp vdm) s = .next u := by
  cases hfault : s.fault with
  | some c => exact ⟨s, exec_feed_stuck t vdp vdm hfault⟩
  | none => rw [exec_feed_unstuck t vdp vdm hfault]; exact (feed_noModelFault h).finish_next s

/-- Settles O43: FEED answers from the invariant, and RESET answers every code but the reserved one. -/
theorem stepAnswersUnlessReservedHint : Obligations.StepAnswersUnlessReservedHint := by
  intro s h
  match hi : s.inputs with
  | [] => exact .inl ⟨s, step_empty hi⟩
  | .sample w :: rest =>
    obtain ⟨u, hu⟩ := exec_feed_answers (inv_inputs h rest) (w.extractLsb' 128 64) (w.extractLsb' 64 64)
      (w.extractLsb' 0 64)
    exact .inl ⟨{ u with feedIndex := u.feedIndex + 1 }, by rw [step_sample hi, decodeSample, hu]⟩
  | .reset code :: rest =>
    rw [step_reset hi]
    obtain rfl | ⟨hint, rfl⟩ := hintCode_cases code
    · exact .inr ⟨rest, rfl, exec_reset_reserved _⟩
    · exact .inl ⟨_, exec_reset_code hint _⟩

end Sys2Proof.Machine
end

section
/-! PROOFS. The registers that FEED does not read: HINT in any state (R21), and the window's registers with the SE0
count outside an attempt (R24, R99, R163). -/

namespace Sys2Proof.Machine

/-! ## HINT -/

/-- Another value in HINT. -/
def withHint (hint : Hint) (s : State) : State := { s with hint := hint }

/-- The same for the answer of a line-symbol operation. -/
def answerWithHint (hint : Hint) (r : State × Bool) : State × Bool := (withHint hint r.1, r.2)

theorem syncCheck_withHint (hint : Hint) (b : Byte) (s : State) :
    syncCheck b (withHint hint s) = (syncCheck b s).map (answerWithHint hint) := by
  simp only [syncCheck, withHint]
  cases syncPattern s.speed with
  | error e => rfl
  | ok pattern =>
    simp only [bind, Except.bind]
    by_cases h : b = pattern
    · rw [if_pos h, if_pos h]; rfl
    · rw [if_neg h, if_neg h]; rfl

theorem pack_withHint (hint : Hint) (bit : Bool) (s : State) :
    pack bit (withHint hint s) = (pack bit s).map (answerWithHint hint) := by
  rcases pack_cases bit s with ⟨hn, he⟩ | ⟨hn, hfull, he⟩ | ⟨hn, hroom, hst, he⟩ | ⟨hn, hroom, hst, he⟩ <;> rw [he]
  · exact pack_shifts (s := withHint hint s) bit hn
  · exact pack_full (s := withHint hint s) bit hn hfull
  · exact pack_appends (s := withHint hint s) bit hn hroom hst
  · rw [pack_first (s := withHint hint s) bit hn hroom hst]; exact syncCheck_withHint hint _ { s with
      bytes := bufAppend s.bytes (placeBit s.curVal s.curN bit), curVal := 0#8, curN := 0#4 }

theorem forward_withHint (hint : Hint) (lv : Levels) (s : State) :
    forward lv (withHint hint s) = (forward lv s).map (answerWithHint hint) := by
  rcases forward_cases lv s with ⟨hst, he⟩ | ⟨hst, hp, he⟩ | ⟨hst, p, hp, he⟩ <;> rw [he]
  · rw [forward_detect (s := withHint hint s) lv hst]
    exact pack_withHint hint _ { s with prevRaw := some (rawBit lv) }
  · exact forward_seeds (s := withHint hint s) lv hst hp
  · rw [forward_nrzi (s := withHint hint s) lv hst hp]
    exact pack_withHint hint _ { s with prevRaw := some (rawBit lv) }

theorem gotEopStep_withHint (hint : Hint) (s : State) :
    gotEopStep (withHint hint s) = withHint hint (gotEopStep s) := by
  rw [gotEopStep_eq, gotEopStep_eq]; rfl

theorem symDiff_withHint (hint : Hint) (lv : Levels) (s : State) :
    symDiff lv (withHint hint s) = (symDiff lv s).map (answerWithHint hint) := by
  rcases symDiff_cases lv s with ⟨harmed, hspd, he⟩ | ⟨harmed, hj, he⟩ | ⟨hfwd, he⟩ <;> rw [he]
  · exact symDiff_noSpeed (s := withHint hint s) hspd harmed
  · rw [symDiff_eop (s := withHint hint s) harmed hj]
    exact congrArg (fun u => Except.ok (u, false)) (gotEopStep_withHint hint { s with se0Count := 0#2 })
  · rw [symDiff_forwards (s := withHint hint s) hfwd]
    exact forward_withHint hint lv { s with se0Count := 0#2 }

theorem symbol_withHint (hint : Hint) (lv : Levels) (tm : Binary64) (s : State) :
    symbol lv tm (withHint hint s) = (symbol lv tm s).map (answerWithHint hint) := by
  unfold symbol
  split_ifs
  · rfl
  · exact symDiff_withHint hint lv s
  · exact forward_withHint hint ⟨false, false⟩ { s with se0Count := se0Saturate s.se0Count }

theorem accumulate_withHint (hint : Hint) (lv : Levels) (s : State) :
    accumulate lv (withHint hint s) = (accumulate lv s).map (withHint hint) := by
  rcases accumulate_cases lv s with ⟨hdp, hdm, he⟩ | ⟨hpast, he⟩ <;> rw [he]
  · exact accumulate_within (s := withHint hint s) hdp hdm
  · exact accumulate_past (s := withHint hint s) hpast

theorem windowStep_withHint (hint : Hint) (tm : Binary64) (lv : Levels) (s : State) :
    windowStep tm lv (withHint hint s) = (windowStep tm lv s).map (withHint hint) := by
  have hsym := symbol_withHint hint (resolve s) tm { s with winActive := false }
  rcases windowStep_cases tm lv s with
    ⟨hend, he⟩ | ⟨hend, ⟨e, hu, he⟩ | ⟨u, hu, he⟩ | ⟨u, hu, hgo⟩⟩
  · rw [he, windowStep_before_end (s := withHint hint s) lv hend, accumulate_withHint]
  all_goals rw [hu] at hsym
  · rw [he, windowStep_closes_error (s := withHint hint s) hend hsym]; rfl
  · rw [he, windowStep_ends (s := withHint hint s) hend hsym]; rfl
  · rw [windowStep_reopens hend hu, windowStep_reopens (s := withHint hint s) hend hsym]
    show (s.winEnd.addPeriod s.speed).bind _ = _
    cases s.winEnd.addPeriod s.speed with
    | error e => rfl
    | ok e => exact accumulate_withHint hint lv (openWindow e u)

theorem openAttempt_withHint (hint : Hint) (tm : Binary64) (lv : Levels) (s : State) :
    openAttempt tm lv (withHint hint s) = (openAttempt tm lv s).map (withHint hint) := by
  by_cases hspd : s.speed = .none
  · rw [openAttempt_noSpeed hspd, openAttempt_noSpeed (s := withHint hint s) hspd]; rfl
  · obtain ⟨e, he⟩ : ∃ e, windowEnd s.cfg.timeArith s.speed tm 1 = .ok e := addPeriod_ok hspd _
    rw [openAttempt_at he, openAttempt_at (s := withHint hint s) he]
    show (if s.cfg.edgeSampleCounted = true then _ else _) = _
    split
    · exact accumulate_withHint hint lv (attemptAt e s)
    · rfl

theorem stateStep_withHint (hint : Hint) (tm : Binary64) (lv : Levels) (s : State) :
    stateStep tm lv (withHint hint s) = (stateStep tm lv s).map (withHint hint) := by
  have attempt (hst : s.st = .detectSync ∨ s.st = .receive) :
      stateStep tm lv (withHint hint s) = (stateStep tm lv s).map (withHint hint) := by
    rw [stateStep_attempt tm lv hst, stateStep_attempt (s := withHint hint s) tm lv hst, windowStep_withHint]
  have transient (hst : s.st = .gotSe1 ∨ s.st = .gotEop) :
      stateStep tm lv (withHint hint s) = (stateStep tm lv s).map (withHint hint) := by
    rw [stateStep_transient tm lv hst, stateStep_transient (s := withHint hint s) tm lv hst]; rfl
  cases hst : s.st with
  | unknown =>
    rw [stateStep_unknown tm lv hst, stateStep_unknown (s := withHint hint s) tm lv hst]; rfl
  | idle =>
    rw [stateStep_idle tm lv hst, stateStep_idle (s := withHint hint s) tm lv hst]
    rcases idleStep_cases tm lv s with ⟨hp, he⟩ | ⟨hp, he⟩ | ⟨hsome, hne, he⟩
    · rw [he]; simp [idleStep, withHint, hp, Except.map]
    · rw [he, idleStep_same (s := withHint hint s) hp]; rfl
    · obtain ⟨p, hp⟩ := Option.ne_none_iff_exists'.mp hsome
      have hedge : p ≠ lv := fun h => hne (h ▸ hp)
      rw [he, idleStep_edge (s := withHint hint s) hp hedge, openAttempt_withHint]
  | detectSync => exact attempt (.inl hst)
  | receive => exact attempt (.inr hst)
  | gotSe1 => exact transient (.inl hst)
  | gotEop => exact transient (.inr hst)

/-- The commit and the end of the FEED carry HINT along. -/
theorem finish_withHint {hint : Hint} {s u : State} {r : Except Stop State} {t : Binary64} {lv : Levels}
    (h : finish s (r.map (feedCommit t lv)) = .next u) :
    finish (withHint hint s) ((r.map (withHint hint)).map (feedCommit t lv)) = .next (withHint hint u) := by
  cases r with
  | ok v => cases h; rfl
  | error x =>
    cases x with
    | model f => cases h
    | raise code => cases h; rfl

/-- Settles O46: every action of a FEED commutes with a change of HINT, and so does the way it ends. -/
theorem feedNeverReadsHint : Obligations.FeedNeverReadsHint := by
  intro s u hint t vdp vdm h
  show exec (.feed t vdp vdm) (withHint hint s) = .next (withHint hint u)
  cases hfault : s.fault with
  | some code =>
    cases (exec_feed_stuck t vdp vdm hfault).symm.trans h
    exact exec_feed_stuck (s := withHint hint s) t vdp vdm hfault
  | none =>
    cases hc : contractBreach t vdp vdm s.lastT with
    | some code =>
      cases (exec_feed_breach hfault hc).symm.trans h
      exact exec_feed_breach (s := withHint hint s) hfault hc
    | none =>
      rw [exec_feed_accepted (accepts_iff.mpr ⟨hfault, hc⟩)] at h
      have hact := stateStep_withHint hint t (levels vdp vdm) { s with sampleT := t }
      rw [exec_feed_accepted (s := withHint hint s) (accepts_iff.mpr ⟨hfault, hc⟩)]
      exact hact ▸ finish_withHint h

/-! ## The window's registers and the SE0 count, outside an attempt -/

/-- Other values in WIN_END, the two sums and SE0_COUNT. -/
def withWindow (e : Time) (p d : Int) (c : BitVec 2) (s : State) : State :=
  { s with winEnd := e, sumDp := p, sumDm := d, se0Count := c }

section Unread
variable (e : Time) (p d : Int) (c : BitVec 2)

/-- The opening of an attempt writes all four before it reads one (R91, R72). -/
theorem openAttempt_withWindow (tm : Binary64) (lv : Levels) (s : State) :
    openAttempt tm lv (withWindow e p d c s) = openAttempt tm lv s := rfl

/-- How two answers of an action compare, the second from the state with other values in the four registers. -/
inductive Unread : Except Stop State → Except Stop State → Prop
  | opened (v : State) (st : v.st = .detectSync) : Unread (.ok v) (.ok v)
  | carried (v : State) (st : v.st ≠ .detectSync) : Unread (.ok v) (.ok (withWindow e p d c v))
  | stopped (x : Stop) : Unread (.error x) (.error x)

theorem openAttempt_unread (tm : Binary64) (lv : Levels) (s : State) :
    Unread e p d c (openAttempt tm lv s) (openAttempt tm lv (withWindow e p d c s)) := by
  rw [openAttempt_withWindow]
  cases h : openAttempt tm lv s with
  | error x => exact .stopped x
  | ok v => exact .opened v (openAttempt_bytes_st h).2

theorem stateStep_unread {tm : Binary64} {lv : Levels} {s : State} (hst : s.st = .unknown ∨ s.st = .idle) :
    Unread e p d c (stateStep tm lv s) (stateStep tm lv (withWindow e p d c s)) := by
  rcases hst with hst | hst
  · rw [stateStep_unknown tm lv hst, stateStep_unknown (s := withWindow e p d c s) tm lv hst]
    refine .carried (speedStep lv s) ?_
    rcases speedStep_cases lv s with ⟨-, -, he⟩ | ⟨-, he⟩ <;> simp [he, hst]
  · rw [stateStep_idle tm lv hst, stateStep_idle (s := withWindow e p d c s) tm lv hst]
    cases hp : s.prevLv with
    | none =>
      rw [idleStep_noBaseline hp, idleStep_noBaseline (s := withWindow e p d c s) hp]
      exact .stopped _
    | some q =>
      by_cases hq : q = lv
      · rw [idleStep_same (hq ▸ hp), idleStep_same (s := withWindow e p d c s) (hq ▸ hp)]
        exact .carried s (by simp [hst])
      · rw [idleStep_edge hp hq, idleStep_edge (s := withWindow e p d c s) hp hq]
        exact openAttempt_unread e p d c tm lv s

variable {e p d c}

/-- What the commit and the end of the FEED make of the two answers. -/
theorem Unread.finish {r r' : Except Stop State} (hr : Unread e p d c r r') {s u : State} {t : Binary64} {lv : Levels}
    (hs : s.st ≠ .detectSync) (h : Machine.finish s (r.map (feedCommit t lv)) = .next u) :
    (u.st = .detectSync ∧ Machine.finish (withWindow e p d c s) (r'.map (feedCommit t lv)) = .next u) ∨
    (u.st ≠ .detectSync ∧
      Machine.finish (withWindow e p d c s) (r'.map (feedCommit t lv)) = .next (withWindow e p d c u)) := by
  cases hr with
  | opened v hv => cases h; exact .inl ⟨hv, rfl⟩
  | carried v hv => cases h; exact .inr ⟨hv, rfl⟩
  | stopped x =>
    cases x with
    | model f => cases h
    | raise code => cases h; exact .inr ⟨hs, rfl⟩

end Unread

/-- Settles O47: an action outside an attempt opens one, and writes the four registers, or carries them along; a stuck
block and a fault entry carry them too. -/
theorem windowRegistersUnreadOutsideAttempt : Obligations.WindowRegistersUnreadOutsideAttempt := by
  intro s u t vdp vdm e p d c hst h
  have hs : s.st ≠ .detectSync := by rcases hst with hst | hst <;> simp [hst]
  show (u.st = .detectSync ∧ exec (.feed t vdp vdm) (withWindow e p d c s) = .next u) ∨
    (u.st ≠ .detectSync ∧ exec (.feed t vdp vdm) (withWindow e p d c s) = .next (withWindow e p d c u))
  cases hfault : s.fault with
  | some code =>
    cases (exec_feed_stuck t vdp vdm hfault).symm.trans h
    exact .inr ⟨hs, exec_feed_stuck (s := withWindow e p d c s) t vdp vdm hfault⟩
  | none =>
    cases hc : contractBreach t vdp vdm s.lastT with
    | some code =>
      cases (exec_feed_breach hfault hc).symm.trans h
      exact .inr ⟨hs, exec_feed_breach (s := withWindow e p d c s) hfault hc⟩
    | none =>
      rw [exec_feed_accepted (accepts_iff.mpr ⟨hfault, hc⟩)] at h
      rw [exec_feed_accepted (s := withWindow e p d c s) (accepts_iff.mpr ⟨hfault, hc⟩)]
      exact (stateStep_unread e p d c (s := { s with sampleT := t }) hst).finish hs h

end Sys2Proof.Machine
end

section
/-! PROOFS. The rows of LINE2 and SYNC8 run alone (log 13): SE1 and the end of packet (R94, R95, R98), the forwarded
window and its one data bit (R103 to R110), the first byte and its SYNC8 row (R97), and the SE0 count (R30). -/

namespace Sys2Proof.Machine

/-- Settles O19: the row emits and discards. -/
theorem se1RowDiscardsWithDiagnostic : Obligations.Se1RowDiscardsWithDiagnostic :=
  fun s => congrArg Host.Outcome.next (symSe1_eq s.sampleT s)

/-- Settles O20: the row's pair is the J of the speed, which ends the packet. -/
theorem jRowAfterTwoSe0EndsPacket : Obligations.JRowAfterTwoSe0EndsPacket := by
  intro s hse0 ended
  have harmed : se0Armed s.se0Count = true := decide_eq_true hse0
  have hended : gotEopStep { s with se0Count := 0#2 } = ended := gotEopStep_eq _
  refine ⟨fun hs => ?_, fun hs => ?_⟩
  · have hj : isJ ⟨true, false⟩ s.speed = .ok true := isJ_iff.mpr (.inl ⟨hs, rfl⟩)
    exact hended ▸ congrArg (finishSub s) (symDiff_eop harmed hj)
  · have hj : isJ ⟨false, true⟩ s.speed = .ok true := isJ_iff.mpr (.inr ⟨hs, rfl⟩)
    exact hended ▸ congrArg (finishSub s) (symDiff_eop harmed hj)

/-- Settles O25: each row compares its byte with the pattern of the speed. -/
theorem syncRowsAcquireOrDiscard : Obligations.SyncRowsAcquireOrDiscard := by
  intro s acquired dropped
  refine ⟨fun hs => ?_, fun hs => ?_⟩
  · have hpattern : syncPattern s.speed = .ok 0x2a#8 := by rw [hs]; rfl
    exact ⟨congrArg (finishSub s) (syncCheck_acquires hpattern),
      congrArg (finishSub s) (syncCheck_discards hpattern (by decide))⟩
  · have hpattern : syncPattern s.speed = .ok 0xd5#8 := by rw [hs]; rfl
    exact ⟨congrArg (finishSub s) (syncCheck_acquires hpattern),
      congrArg (finishSub s) (syncCheck_discards hpattern (by decide))⟩

/-- Settles O27: by induction, the count after `n` windows is `n` up to 2. -/
theorem saturatingCountTestsAsUnbounded : Obligations.SaturatingCountTestsAsUnbounded := by
  intro n
  have hcount : (se0Saturate^[n] 0#2).toNat = min n 2 := by
    induction n with
    | zero => rfl
    | succ n ih =>
      rw [Function.iterate_succ_apply', se0Saturate, ih, BitVec.toNat_ofNat]
      omega
  exact ⟨hcount, by simp [se0Armed, hcount]⟩

/-! ## A forwarded window -/

/-- A differential pair is forwarded before two SE0 windows, and at the speed where it is K (R95). -/
theorem symDiff_forwards_unless {lv : Levels} {s : State} {off : Speed} (hoff : isJ lv off = .ok false)
    (h : ¬ (2 ≤ s.se0Count.toNat ∧ s.speed ≠ off)) : symDiff lv s = forward lv { s with se0Count := 0#2 } := by
  apply symDiff_forwards
  by_cases harmed : 2 ≤ s.se0Count.toNat
  · have hspd : s.speed = off := by simpa [harmed] using h
    exact .inr (hspd ▸ hoff)
  · exact .inl (decide_eq_false harmed)

/-- A line row whose window is forwarded is FORWARD of its pair, with the SE0 count written. -/
theorem exec_forwarded {i : Instr} {s : State} {raw : Bool} {count : BitVec 2}
    (h : forwarded i s = some (raw, count)) :
    ∃ lv, rawBit lv = raw ∧ exec i s = finishSub s (forward lv { s with se0Count := count }) := by
  cases i with
  | se0 => cases h; exact ⟨⟨false, false⟩, rfl, rfl⟩
  | diff01 =>
    obtain ⟨hno, hraw⟩ := Option.ite_none_left_eq_some.mp h
    cases hraw
    exact ⟨⟨false, true⟩, rfl, congrArg (finishSub s) (symDiff_forwards_unless (off := .fs) rfl hno)⟩
  | diff10 =>
    obtain ⟨hno, hraw⟩ := Option.ite_none_left_eq_some.mp h
    cases hraw
    exact ⟨⟨true, false⟩, rfl, congrArg (finishSub s) (symDiff_forwards_unless (off := .ls) rfl hno)⟩
  | _ => cases h

/-- FORWARD packs the data bit of its raw bit (R105, R106) and remembers the raw bit (R107). -/
theorem forward_dataBit {lv : Levels} {s : State} {bit : Bool} (h : dataBit s (rawBit lv) = some bit) :
    forward lv s = pack bit { s with prevRaw := some (rawBit lv) } := by
  unfold dataBit at h
  by_cases hst : s.st = .detectSync
  · rw [if_pos hst] at h
    cases h
    exact forward_detect lv hst
  · rw [if_neg hst] at h
    obtain ⟨p, hp, rfl⟩ := Option.map_eq_some_iff.mp h
    exact forward_nrzi lv hst hp

/-- Settles O26: there is no previous raw bit to compare with. -/
theorem firstPostSyncWindowOnlySeeds : Obligations.FirstPostSyncWindowOnlySeeds := by
  intro i s raw count hst hp hf
  obtain ⟨lv, rfl, hexec⟩ := exec_forwarded hf
  rw [hexec, forward_seeds (s := { s with se0Count := count }) lv (by simp [hst]) hp]
  rfl

/-- A line row whose window carries a data bit packs it. -/
theorem exec_packs {i : Instr} {s : State} {raw bit : Bool} {count : BitVec 2}
    (hf : forwarded i s = some (raw, count)) (hbit : dataBit s raw = some bit) :
    exec i s = finishSub s (pack bit { s with se0Count := count, prevRaw := some raw }) := by
  obtain ⟨lv, rfl, hexec⟩ := exec_forwarded hf
  rw [hexec, forward_dataBit (s := { s with se0Count := count }) hbit]

/-- R110: a bit placed above the bits that are in adds its power of two. -/
theorem placeBit_eq_addBit {val : BitVec 8} {n : BitVec 4} (bit : Bool) (hn : n.toNat < 8)
    (hval : val.toNat < 2 ^ n.toNat) : placeBit val n bit = addBit val n.toNat bit := by
  have hbit : ((BitVec.ofBool bit).setWidth 8).toNat = bit.toNat := by
    rw [BitVec.toNat_setWidth_of_le (by omega), BitVec.toNat_ofBool]
  have hplace : 2 ^ n.toNat ≤ 2 ^ 7 := Nat.pow_le_pow_right (by omega) (by omega)
  apply BitVec.eq_of_toNat_eq
  rw [placeBit, BitVec.or_comm, toNat_shiftLeft_or hval, hbit, addBit, BitVec.toNat_ofNat] <;> cases bit
  all_goals simp
  all_goals omega

/-- Settles O21: before the eighth bit PACK only places it. -/
theorem forwardedWindowPlacesOneBit : Obligations.ForwardedWindowPlacesOneBit := by
  intro i s raw bit count _ hf hbit hn hval
  have hnext : s.curN + 1#4 = BitVec.ofNat 4 (s.curN.toNat + 1) := by
    rw [BitVec.ofNat_add, BitVec.ofNat_toNat, BitVec.setWidth_eq]
  rw [exec_packs hf hbit, pack_partial (s := { s with se0Count := count, prevRaw := some raw }) bit hn, hnext,
    placeBit_eq_addBit bit (by omega) hval]
  rfl

/-- The byte that the eighth bit completes. -/
theorem placeBit_seventh {val : BitVec 8} (bit : Bool) (hval : val.toNat < 128) :
    placeBit val 7#4 bit = addBit val 7 bit := placeBit_eq_addBit bit (by decide) hval

/-- Settles O22: with room in the buffer PACK appends the byte. -/
theorem eighthBitAppendsByte : Obligations.EighthBitAppendsByte := by
  intro i s raw bit count hst hf hbit hn hval hroom
  rw [exec_packs hf hbit, pack_eighth (s := { s with se0Count := count, prevRaw := some raw }) bit hst hn hroom, hn,
    placeBit_seventh bit hval]
  rfl

/-- Settles O23: PACK tests the buffer before it appends and before any SYNC check. -/
theorem byteIntoFullBufferFaults : Obligations.ByteIntoFullBufferFaults := by
  intro i s raw bit count _ hf hbit hn hfull
  have hbuf : bufFull s.cfg.bufCap s.bytes = true := by simp [bufFull, hfull]
  rw [exec_packs hf hbit, pack_full (s := { s with se0Count := count, prevRaw := some raw }) bit (by rw [hn]; rfl) hbuf]
  rfl

/-! ## The first byte of an attempt -/

/-- The eighth bit in DETECT_SYNC runs SYNC_CHECK on the byte it completes. -/
theorem exec_firstByte {i : Instr} {s : State} {raw : Bool} {count : BitVec 2} (hst : s.st = .detectSync)
    (hbytes : s.bytes = []) (hf : forwarded i s = some (raw, count)) (hn : s.curN = 7#4) (hval : s.curVal.toNat < 128)
    (hcap : s.cfg.bufCap ≠ some 0) :
    exec i s = finishSub s (syncCheck (addBit s.curVal 7 raw) { s with
      se0Count := count, prevRaw := some raw, bytes := [addBit s.curVal 7 raw], curVal := 0#8, curN := 0#4 }) := by
  have hbit : dataBit s raw = some raw := if_pos hst
  have hroom : bufFull s.cfg.bufCap s.bytes = false := bufFull_eq_false_iff.mpr (by simpa [hbytes] using hcap)
  rw [exec_packs hf hbit,
    pack_first (s := { s with se0Count := count, prevRaw := some raw }) raw (by rw [hn]; rfl) hroom hst, hn,
    placeBit_seventh raw hval, hbytes]
  rfl

/-- SYNC_CHECK raises no fault, so where it starts from does not matter to how it ends. -/
theorem finishSub_syncCheck (before s : State) (b : Byte) :
    finishSub before (syncCheck b s) = finishSub s (syncCheck b s) := by
  rcases syncCheck_cases b s with ⟨-, he⟩ | ⟨-, he⟩ | ⟨-, -, he⟩ <;> rw [he] <;> rfl

/-- The row of a first byte is SYNC_CHECK on that byte (R53, R97). -/
theorem exec_decodeSync {b : Byte} {row : Instr} (h : decodeSync b = .ok row) (s : State) :
    exec row s = finishSub s (syncCheck b s) := by
  unfold decodeSync at h
  split_ifs at h with hfs hls <;> cases h
  · rw [hfs]; rfl
  · rw [hls]; rfl

/-- A byte of no row is no speed's pattern. -/
theorem syncPattern_ne_of_decodeSync_error {b : Byte} {r : Reject} (h : decodeSync b = .error r) {spd : Speed}
    {pattern : Byte} (hp : syncPattern spd = .ok pattern) : b ≠ pattern := by
  obtain ⟨-, hfs, hls⟩ := decodeSync_error h
  cases spd <;> cases hp
  · exact hls
  · exact hfs

/-- Settles O24: SYNC_CHECK on the completed byte is its row, or finds that the byte is not the pattern. -/
theorem firstByteRunsSyncRow : Obligations.FirstByteRunsSyncRow := by
  intro i s raw count hst hbytes hf hn hval hcap hspd b
  have hexec := exec_firstByte hst hbytes hf hn hval hcap
  split
  next row hrow => rw [hexec, finishSub_syncCheck, exec_decodeSync hrow]
  next r hrow =>
    obtain ⟨pattern, hp⟩ := syncPattern_ok hspd
    rw [hexec, syncCheck_discards (s := { s with
      se0Count := count, prevRaw := some raw, bytes := [b], curVal := 0#8, curN := 0#4 }) hp
      (syncPattern_ne_of_decodeSync_error hrow hp)]
    rfl

end Sys2Proof.Machine
end

section
/-! PROOFS. A packet on the line (R64): the eight windows of the SYNC field acquire (R97, R105), each byte after it is
received (R106 to R111), and SE0 SE0 J emits the packet and ends the attempt (R95, R98). -/

namespace Sys2Proof.Machine

theorem runLine_append {a : List Levels} {s t : State} (h : runLine a s = .next t) (b : List Levels) :
    runLine (a ++ b) s = runLine b t := by
  induction a generalizing s with
  | nil => cases h; rfl
  | cons lv a ih =>
    rw [runLine] at h
    split at h
    case h_1 u hu => rw [List.cons_append, runLine_cons hu, ih h]
    all_goals cases h

theorem nrziEncode_append (cur : Symbol) (a b : List Bool) :
    nrziEncode cur (a ++ b) = nrziEncode cur a ++ nrziEncode (nrziLast cur a) b := by
  induction a generalizing cur with
  | nil => rfl
  | cons bit a ih => simp [ih]

/-! ## The SYNC field -/

/-- The first `k` raw bits of the byte `b` are in, in DETECT_SYNC at the speed whose pattern `b` is. -/
structure DetectingByte (b : Byte) (k : Nat) (s : State) : Prop where
  st : s.st = .detectSync
  pattern : syncPattern s.speed = .ok b
  seed : s.cfg.nrziSeed = .lastSyncBit
  room : s.cfg.bufCap = none
  bytes : s.bytes = []
  se0Count : s.se0Count = 0#2
  curVal : s.curVal = lowBits b k
  curN : s.curN = BitVec.ofNat 4 k

/-- A state that has taken the first `k` raw bits of `b`, the last of them `raw`. -/
def withRawBits (b : Byte) (k : Nat) (raw : Bool) (s : State) : State :=
  { s with curVal := lowBits b k, curN := BitVec.ofNat 4 k, prevRaw := some raw }

/-- A state that has acquired on the byte `b`, whose last raw bit is the NRZI history. -/
def acquiredOn (b : Byte) (s : State) : State :=
  { s with st := .receive, bytes := [b], curVal := 0#8, curN := 0#4, prevRaw := some (b.getLsbD 7) }

theorem DetectingByte.next {b : Byte} {k : Nat} {s : State} (h : DetectingByte b k s) (k' : Nat) (raw : Bool) :
    DetectingByte b k' (withRawBits b k' raw s) :=
  ⟨h.st, h.pattern, h.seed, h.room, h.bytes, h.se0Count, rfl, rfl⟩

/-- In DETECT_SYNC the row of a differential window packs its raw bit. -/
theorem exec_rawBit {lv : Levels} {s : State} (hlv : lv.dp ≠ lv.dm) (hst : s.st = .detectSync)
    (hse0 : s.se0Count = 0#2) :
    exec (decodeLine (lineCode lv)) s = finishSub s (pack (rawBit lv) { s with prevRaw := some (rawBit lv) }) := by
  rw [exec_differential hlv, symDiff_unarmed hse0, forward_detect lv hst]

theorem exec_syncBit {b : Byte} {k : Nat} {lv : Levels} {s : State} (h : DetectingByte b k s) (hk : k < 7)
    (hlv : lv.dp ≠ lv.dm) (hraw : rawBit lv = b.getLsbD k) :
    exec (decodeLine (lineCode lv)) s = .next (withRawBits b (k + 1) (b.getLsbD k) s) := by
  have hn : s.curN + 1#4 = BitVec.ofNat 4 (k + 1) := by rw [h.curN, BitVec.ofNat_add]
  have hval : placeBit s.curVal s.curN (b.getLsbD k) = lowBits b (k + 1) := by
    rw [h.curVal, h.curN, placeBit_lowBits b (by omega)]
  rw [exec_rawBit hlv h.st h.se0Count, hraw, pack_partial, withRawBits, ← hn, ← hval]
  · rfl
  · rw [h.curN, BitVec.toNat_ofNat]; omega

theorem exec_eighthSyncBit {b : Byte} {lv : Levels} {s : State} (h : DetectingByte b 7 s)
    (hlv : lv.dp ≠ lv.dm) (hraw : rawBit lv = b.getLsbD 7) :
    exec (decodeLine (lineCode lv)) s = .next (acquiredOn b s) := by
  have hval : placeBit s.curVal s.curN (b.getLsbD 7) = b := by
    rw [h.curVal, h.curN, placeBit_lowBits b (by omega), lowBits_eight]
  have hroom : bufFull s.cfg.bufCap s.bytes = false := by rw [h.room]; rfl
  rw [exec_rawBit hlv h.st h.se0Count, hraw,
    pack_first (s := { s with prevRaw := some (b.getLsbD 7) }) _ (by rw [h.curN]; rfl) hroom h.st, hval, h.bytes]
  have hacquires := syncCheck_acquires (b := b) (s := { s with
    prevRaw := some (b.getLsbD 7), bytes := [b], curVal := 0#8, curN := 0#4 }) h.pattern
  rw [if_neg (by simp [h.seed])] at hacquires
  exact congrArg (finishSub s) hacquires

/-- The windows of the raw bits from place `k` on acquire: by induction on the bits after the one at `k`. -/
theorem runLine_syncFrom {b : Byte} {k : Nat} {s : State} {lvs : List Levels} (m : Nat) (hk : k + m = 7)
    (h : DetectingByte b k s) (hlvs : ∀ lv ∈ lvs, lv.dp ≠ lv.dm)
    (hraw : lvs.map rawBit = (List.range' k (m + 1)).map b.getLsbD) :
    runLine lvs s = .next (acquiredOn b s) := by
  induction m generalizing k s lvs with
  | zero =>
    obtain rfl : k = 7 := hk
    obtain ⟨lv, rfl, hbit⟩ := List.map_eq_singleton_iff.mp hraw
    rw [runLine_cons (exec_eighthSyncBit h (hlvs lv (by simp)) hbit)]
    rfl
  | succ m ih =>
    rw [List.range'_succ, List.map_cons] at hraw
    obtain ⟨lv, rest, rfl, hbit, hrest⟩ := List.map_eq_cons_iff.mp hraw
    rw [runLine_cons (exec_syncBit h (by omega) (hlvs lv (by simp)) hbit)]
    exact ih (by omega) (h.next _ _) (fun lv hlv => hlvs lv (by simp [hlv])) hrest

/-- The SYNC byte of a speed (R53). -/
def syncByte (spd : Speed) : Byte := if spd = .fs then 0x2a#8 else 0xd5#8

theorem syncPattern_eq_syncByte {spd : Speed} (h : spd ≠ .none) : syncPattern spd = .ok (syncByte spd) := by
  cases spd with
  | none => exact absurd rfl h
  | ls => rfl
  | fs => rfl

/-- The levels of the SYNC field, K J K J K J K K. -/
def syncField (lowSpeed : Bool) : List Levels := (nrziEncode .j (byteBits 0x80#8)).map (Symbol.levels lowSpeed)

theorem syncField_differential (lowSpeed : Bool) : ∀ lv ∈ syncField lowSpeed, lv.dp ≠ lv.dm := by
  cases lowSpeed <;> decide

/-- The raw bits of the SYNC field are those of the SYNC byte of the speed, and its last line state, K, shows the last
one. -/
theorem syncField_rawBits {spd : Speed} (h : spd ≠ .none) :
    (syncField (spd == .ls)).map rawBit = (List.range' 0 8).map (syncByte spd).getLsbD ∧
      (syncByte spd).getLsbD 7 = rawBit (Symbol.k.levels (spd == .ls)) := by
  cases spd with
  | none => exact absurd rfl h
  | ls => decide
  | fs => decide

/-! ## The body -/

/-- Between two bytes of RECEIVE: the byte assembler is empty, the line shows `cur`, and the buffer is unbounded. -/
structure BetweenBytes (lowSpeed : Bool) (cur : Symbol) (s : State) : Prop where
  st : s.st = .receive
  cur_jk : cur = .j ∨ cur = .k
  prevRaw : s.prevRaw = some (rawBit (cur.levels lowSpeed))
  se0Count : s.se0Count = 0#2
  curVal : s.curVal = 0#8
  curN : s.curN = 0#4
  room : s.cfg.bufCap = none

theorem BetweenBytes.receiving {lowSpeed : Bool} {cur : Symbol} {s : State} (h : BetweenBytes lowSpeed cur s)
    (b : Byte) : ReceivingByte lowSpeed b 0 cur s :=
  ⟨h.st, h.cur_jk, h.prevRaw, h.se0Count, h.curVal.trans (lowBits_zero b).symm, h.curN, by simp [h.room]⟩

theorem nrziLast_jk {cur : Symbol} (h : cur = .j ∨ cur = .k) (bits : List Bool) :
    nrziLast cur bits = .j ∨ nrziLast cur bits = .k := by
  induction bits generalizing cur with
  | nil => exact h
  | cons bit bits ih => exact ih (nrziNext_jk h bit)

theorem BetweenBytes.next {lowSpeed : Bool} {cur : Symbol} {s : State} (h : BetweenBytes lowSpeed cur s) (b : Byte)
    (bits : List Bool) : BetweenBytes lowSpeed (nrziLast cur bits) (withByte lowSpeed b (nrziLast cur bits) s) :=
  ⟨h.st, nrziLast_jk h.cur_jk bits, rfl, h.se0Count, rfl, rfl, h.room⟩

/-- The windows of a sequence of bytes append it, and lead between two bytes again. -/
theorem runLine_bytes {lowSpeed : Bool} {cur : Symbol} {s : State} (h : BetweenBytes lowSpeed cur s)
    (body : List Byte) :
    ∃ last raw, BetweenBytes lowSpeed last { s with bytes := s.bytes ++ body, prevRaw := raw } ∧
      runLine ((nrziEncode cur (body.flatMap byteBits)).map (Symbol.levels lowSpeed)) s =
        .next { s with bytes := s.bytes ++ body, prevRaw := raw } := by
  induction body generalizing cur s with
  | nil =>
    have hsame : ({ s with bytes := s.bytes ++ [], prevRaw := s.prevRaw } : State) = s := by rw [List.append_nil]
    exact ⟨cur, s.prevRaw, hsame.symm ▸ h, congrArg Host.Outcome.next hsame.symm⟩
  | cons b body ih =>
    have hbyte := runLine_byte (h.receiving b)
    obtain ⟨last, raw, hlast, hrun⟩ := ih (h.next b (byteBits b))
    have hjoin : ({ withByte lowSpeed b (nrziLast cur (byteBits b)) s with
        bytes := (withByte lowSpeed b (nrziLast cur (byteBits b)) s).bytes ++ body, prevRaw := raw } : State) =
        { s with bytes := s.bytes ++ b :: body, prevRaw := raw } := by
      simp [withByte, h.curVal, h.curN]
    refine ⟨last, raw, hjoin ▸ hlast, ?_⟩
    rw [List.flatMap_cons, nrziEncode_append, List.map_append, runLine_append hbyte, hrun, hjoin]

/-! ## The end of the packet -/

/-- In RECEIVE an SE0 window before the eighth bit is one more data bit, with the raw bit 0 (R96). -/
theorem exec_se0_packs {s : State} {p : Bool} (hst : s.st = .receive) (hp : s.prevRaw = some p)
    (hn : s.curN.toNat < 7) :
    exec .se0 s = .next { s with
      se0Count := se0Saturate s.se0Count, prevRaw := some false, curVal := placeBit s.curVal s.curN (false == p),
      curN := s.curN + 1#4 } := by
  have hpack : symSe0 s = pack (false == p) { s with se0Count := se0Saturate s.se0Count, prevRaw := some false } :=
    forward_receive (s := { s with se0Count := se0Saturate s.se0Count }) hst hp
  show finishSub s (symSe0 s) = _
  rw [hpack, pack_partial (s := { s with se0Count := se0Saturate s.se0Count, prevRaw := some false }) _ hn]
  rfl

theorem runLine_twoSe0 {lowSpeed : Bool} {cur : Symbol} {s : State} (h : BetweenBytes lowSpeed cur s) :
    ∃ val n, runLine [⟨false, false⟩, ⟨false, false⟩] s =
      .next { s with se0Count := 2#2, prevRaw := some false, curVal := val, curN := n } := by
  have first := exec_se0_packs h.st h.prevRaw (by simp [h.curN])
  have second := exec_se0_packs (s := { s with
    se0Count := se0Saturate s.se0Count, prevRaw := some false,
    curVal := placeBit s.curVal s.curN (false == rawBit (cur.levels lowSpeed)), curN := s.curN + 1#4 })
    h.st rfl (by simp [h.curN])
  have hcount : se0Saturate (se0Saturate s.se0Count) = 2#2 := by rw [h.se0Count]; rfl
  rw [hcount] at second
  exact ⟨_, _, (runLine_cons (lv := ⟨false, false⟩) first _).trans (runLine_cons (lv := ⟨false, false⟩) second [])⟩

theorem isJ_levels {spd : Speed} (h : spd ≠ .none) : isJ (Symbol.j.levels (spd == .ls)) spd = .ok true := by
  cases spd with
  | none => exact absurd rfl h
  | ls => rfl
  | fs => rfl

/-- The row of a J after two SE0 windows ends the packet. -/
theorem exec_j_ends {s : State} (hspd : s.speed ≠ .none) (hse0 : s.se0Count = 2#2) (hlen : 1 < s.bytes.length) :
    exec (decodeLine (lineCode (Symbol.j.levels (s.speed == .ls)))) s = .next (discard { s with
      se0Count := 0#2, log := s.log ++ [(s.feedIndex, .packet (classify s.cfg.crc5Order s.bytes))] }) := by
  have harmed : se0Armed s.se0Count = true := by rw [hse0]; rfl
  rw [exec_differential (levels_differential (.inl rfl) _), symDiff_eop harmed (isJ_levels hspd), gotEopStep_eq,
    if_pos (by exact hlen)]
  rfl

/-- SE0 SE0 J after whole bytes end the packet: the two bits of the SE0 windows are dropped with the attempt. -/
theorem runLine_eop {s : State} {cur : Symbol} (h : BetweenBytes (s.speed == .ls) cur s) (hspd : s.speed ≠ .none)
    (hlen : 1 < s.bytes.length) :
    runLine ([Symbol.se0, .se0, .j].map (Symbol.levels (s.speed == .ls))) s =
      .next (discard { s with
        se0Count := 0#2, log := s.log ++ [(s.feedIndex, .packet (classify s.cfg.crc5Order s.bytes))] }) := by
  obtain ⟨val, n, hse0⟩ := runLine_twoSe0 h
  have hj := exec_j_ends (s := { s with se0Count := 2#2, prevRaw := some false, curVal := val, curN := n })
    hspd rfl hlen
  exact (runLine_append hse0 [Symbol.j.levels (s.speed == .ls)]).trans ((runLine_cons hj []).trans rfl)

/-- The symbols of a packet are the SYNC field, the body from K, and the end of the packet. -/
theorem packet_symbols (body : List Byte) (lowSpeed : Bool) :
    (Directive.symbols (.packet body)).map (Symbol.levels lowSpeed) =
      syncField lowSpeed ++ ((nrziEncode .k (body.flatMap byteBits)).map (Symbol.levels lowSpeed) ++
        [Symbol.se0, .se0, .j].map (Symbol.levels lowSpeed)) := by
  have hlast : nrziLast .j (byteBits 0x80#8) = .k := by decide
  rw [Directive.symbols, List.flatMap_cons, nrziEncode_append, hlast, List.append_assoc, List.map_append,
    List.map_append]
  rfl

/-- Settles O29: the SYNC field acquires, the body is received after it, and SE0 SE0 J emits the buffer. -/
theorem packetRoundTrip : Obligations.PacketRoundTrip := by
  intro s body hst hspd hseed hroom hbytes hval hn hse0 hbody
  obtain ⟨hraw, hlast⟩ := syncField_rawBits hspd
  have hsync : runLine (syncField (s.speed == .ls)) s = .next (acquiredOn (syncByte s.speed) s) :=
    runLine_syncFrom 7 rfl ⟨hst, syncPattern_eq_syncByte hspd, hseed, hroom, hbytes, hse0,
      hval.trans (lowBits_zero _).symm, hn⟩ (syncField_differential _) hraw
  have hstart : BetweenBytes (s.speed == .ls) .k (acquiredOn (syncByte s.speed) s) :=
    ⟨rfl, .inr rfl, congrArg some hlast, hse0, rfl, rfl, hroom⟩
  obtain ⟨last, raw, hend, hrun⟩ := runLine_bytes hstart body
  have hlen : 1 < ([syncByte s.speed] ++ body).length := by simpa using List.length_pos_iff.mpr hbody
  rw [packet_symbols, runLine_append hsync, runLine_append hrun]
  exact runLine_eop (s := { acquiredOn (syncByte s.speed) s with
    bytes := [syncByte s.speed] ++ body, prevRaw := raw }) hend hspd hlen

end Sys2Proof.Machine
end

section
/-! PROOFS. The rows of PID8 and CLASSIFY: one table of PIDs, one record (R114, R115), the conditions that a record
shows (R141, R144, R145), and a flipped bit of a checksum (R139). -/

namespace Sys2Proof.Machine

/-- R54, R114: the row that a PID byte decodes to emits the record that CLASSIFY gives for that byte. -/
theorem exec_decodePid (pid : Byte) (s : State) :
    exec (decodePid pid) s = .next (emit (.packet (classifyPid s.cfg.crc5Order pid s.bytes)) s) := by
  unfold decodePid classifyPid
  split_ifs <;> rfl

/-- Settles O30: the row's record is that of the PID byte, which is the second one. -/
theorem endOfPacketRunsPidRow : Obligations.EndOfPacketRunsPidRow := by
  intro s sync pid rest hbytes
  have hclass : classify s.cfg.crc5Order s.bytes = classifyPid s.cfg.crc5Order pid s.bytes := by rw [hbytes]; rfl
  rw [exec_decodePid, hclass]
  rfl

theorem needsFour_of_length_lt {b : List Byte} (h : b.length < 4) (rec : Option Packet) :
    needsFour b rec = .raw b := if_neg (by omega)

/-- Settles O36: each of the six rows asks for four bytes first. -/
theorem shortPacketIsRaw : Obligations.ShortPacketIsRaw := by
  intro s i hi hlen
  have hraw := needsFour_of_length_lt hlen
  simp only [List.mem_cons, List.not_mem_nil, or_false] at hi
  rcases hi with rfl | rfl | rfl | rfl | rfl | rfl
  · rw [exec_sof, sofPacket, hraw]; rfl
  · rw [exec_setup, tokenPacket, hraw]; rfl
  · rw [exec_inToken, tokenPacket, hraw]; rfl
  · rw [exec_outToken, tokenPacket, hraw]; rfl
  · rw [exec_data0, dataPacket, hraw]; rfl
  · rw [exec_data1, dataPacket, hraw]; rfl

/-! ## What a record shows -/

/-- A ChecksumMismatch is shown by the three kinds that carry a check (R144). -/
theorem cause_checksumMismatch_iff (p : Packet) :
    p.cause = some .checksumMismatch ↔
      (∃ fn rx, p = .sof fn rx false p.rawBytes) ∨ (∃ k a e rx, p = .token k a e rx false p.rawBytes) ∨
      (∃ k pl rx, p = .data k pl rx false p.rawBytes) := by
  cases p with
  | raw b => by_cases h : (memRead b 1).any namedPids.contains = true <;> simp [Packet.cause, h]
  | sof fn rx ok b => cases ok <;> simp [Packet.cause, Packet.rawBytes]
  | token k a e rx ok b => cases ok <;> simp [Packet.cause, Packet.rawBytes]
  | data k pl rx ok b => cases ok <;> simp [Packet.cause, Packet.rawBytes]
  | handshake k b => simp [Packet.cause]

/-- A Raw record shows a MalformedPacket where its PID is one of the nine (R145); no other record shows one. -/
theorem cause_malformedPacket_iff (p : Packet) :
    p.cause = some .malformedPacket ↔ ∃ b, p = .raw b ∧ (memRead b 1).any namedPids.contains = true := by
  cases p with
  | raw b => by_cases h : (memRead b 1).any namedPids.contains = true <;> simp [Packet.cause, h]
  | sof fn rx ok b => cases ok <;> simp [Packet.cause]
  | token k a e rx ok b => cases ok <;> simp [Packet.cause]
  | data k pl rx ok b => cases ok <;> simp [Packet.cause]
  | handshake k b => simp [Packet.cause]

/-! Four bytes are enough for each extractor (R115). -/

theorem memRead_of_lt {b : List Byte} {i : Nat} (h : i < b.length) : ∃ v, memRead b i = some v :=
  ⟨b[i], List.getElem?_eq_getElem h⟩

theorem memReadBack_of_le {b : List Byte} {k : Nat} (h1 : 1 ≤ k) (h : k ≤ b.length) : ∃ v, memReadBack b k = some v :=
  ⟨b[b.length - k], by simp [memReadBack, h1, h]⟩

theorem sofRec_of_four {b : List Byte} (order : Crc5Order) (h : 4 ≤ b.length) :
    ∃ fn rx ok, sofRec order b = some (.sof fn rx ok b) := by
  obtain ⟨b2, h2⟩ := memRead_of_lt (i := 2) (b := b) (by omega)
  obtain ⟨b3, h3⟩ := memRead_of_lt (i := 3) (b := b) (by omega)
  exact ⟨_, _, _, by rw [sofRec, h2, h3]; rfl⟩

theorem tokenRec_of_four {b : List Byte} (order : Crc5Order) (k : TokenKind) (h : 4 ≤ b.length) :
    ∃ a e rx ok, tokenRec order k b = some (.token k a e rx ok b) := by
  obtain ⟨b2, h2⟩ := memRead_of_lt (i := 2) (b := b) (by omega)
  obtain ⟨b3, h3⟩ := memRead_of_lt (i := 3) (b := b) (by omega)
  exact ⟨_, _, _, _, by rw [tokenRec, h2, h3]; rfl⟩

theorem dataRec_of_four {b : List Byte} (k : DataPid) (h : 4 ≤ b.length) :
    ∃ pl rx ok, dataRec k b = some (.data k pl rx ok b) := by
  obtain ⟨last, h1⟩ := memReadBack_of_le (k := 1) (b := b) (by omega) (by omega)
  obtain ⟨secondLast, h2⟩ := memReadBack_of_le (k := 2) (b := b) (by omega) (by omega)
  exact ⟨_, _, _, by rw [dataRec, h1, h2]; rfl⟩

/-- A PID that needs four bytes shows a MalformedPacket exactly where there are fewer (R115, R145). -/
theorem needsFour_malformedPacket_iff {b : List Byte} {rec : Option Packet} {pid : Byte}
    (hpid : memRead b 1 = some pid) (hnamed : pid ∈ namedPids)
    (hrec : 4 ≤ b.length → ∃ p, rec = some p ∧ ∀ b', p ≠ .raw b') :
    (needsFour b rec).cause = some .malformedPacket ↔ b.length < 4 := by
  rw [cause_malformedPacket_iff]
  by_cases hlen : b.length < 4
  · rw [needsFour_of_length_lt hlen]
    exact ⟨fun _ => hlen, fun _ => ⟨b, rfl, by simpa [hpid] using hnamed⟩⟩
  · obtain ⟨p, hp, hraw⟩ := hrec (by omega)
    rw [needsFour_of_le_length (by omega), hp]
    exact ⟨fun ⟨b', hb, _⟩ => absurd hb (hraw b'), fun h => absurd h hlen⟩

theorem sofPacket_malformedPacket_iff {b : List Byte} {pid : Byte} (order : Crc5Order)
    (hpid : memRead b 1 = some pid) (hnamed : pid ∈ namedPids) :
    (sofPacket order b).cause = some .malformedPacket ↔ b.length < 4 :=
  needsFour_malformedPacket_iff hpid hnamed fun h =>
    have ⟨_, _, _, hrec⟩ := sofRec_of_four order h
    ⟨_, hrec, fun _ => Packet.noConfusion⟩

theorem tokenPacket_malformedPacket_iff {b : List Byte} {pid : Byte} (order : Crc5Order) (k : TokenKind)
    (hpid : memRead b 1 = some pid) (hnamed : pid ∈ namedPids) :
    (tokenPacket order k b).cause = some .malformedPacket ↔ b.length < 4 :=
  needsFour_malformedPacket_iff hpid hnamed fun h =>
    have ⟨_, _, _, _, hrec⟩ := tokenRec_of_four order k h
    ⟨_, hrec, fun _ => Packet.noConfusion⟩

theorem dataPacket_malformedPacket_iff {b : List Byte} {pid : Byte} (k : DataPid)
    (hpid : memRead b 1 = some pid) (hnamed : pid ∈ namedPids) :
    (dataPacket k b).cause = some .malformedPacket ↔ b.length < 4 :=
  needsFour_malformedPacket_iff hpid hnamed fun h =>
    have ⟨_, _, _, hrec⟩ := dataRec_of_four k h
    ⟨_, hrec, fun _ => Packet.noConfusion⟩

theorem handshakePacket_cause {b : List Byte} (h : 2 ≤ b.length) (k : HandshakeKind) :
    (handshakePacket k b).cause = none := by
  rw [handshakePacket_of_two_le_length h]; rfl

/-- The PIDs whose fields need four bytes (R115). -/
def longPids : List Byte := [0xa5#8, 0x2d#8, 0x69#8, 0xe1#8, 0xc3#8, 0x4b#8]

theorem classifyPid_malformedPacket_iff (order : Crc5Order) (pid : Byte) {b : List Byte}
    (hpid : memRead b 1 = some pid) (hlen : 2 ≤ b.length) :
    (classifyPid order pid b).cause = some .malformedPacket ↔ pid ∈ longPids ∧ b.length < 4 := by
  have long {p : Packet} (hmem : pid ∈ longPids) (h : p.cause = some .malformedPacket ↔ b.length < 4) :
      p.cause = some .malformedPacket ↔ pid ∈ longPids ∧ b.length < 4 := by simp [h, hmem]
  have never {p : Packet} (hmem : pid ∉ longPids) (h : p.cause = none) :
      p.cause = some .malformedPacket ↔ pid ∈ longPids ∧ b.length < 4 := by simp [h, hmem]
  unfold classifyPid
  split_ifs with h1 h2 h3 h4 h5 h6 h7 h8 h9
  · exact long (by simp [longPids, h1]) (sofPacket_malformedPacket_iff order hpid (by simp [namedPids, h1]))
  · exact long (by simp [longPids, h2]) (tokenPacket_malformedPacket_iff order _ hpid (by simp [namedPids, h2]))
  · exact long (by simp [longPids, h3]) (tokenPacket_malformedPacket_iff order _ hpid (by simp [namedPids, h3]))
  · exact long (by simp [longPids, h4]) (tokenPacket_malformedPacket_iff order _ hpid (by simp [namedPids, h4]))
  · exact long (by simp [longPids, h5]) (dataPacket_malformedPacket_iff _ hpid (by simp [namedPids, h5]))
  · exact long (by simp [longPids, h6]) (dataPacket_malformedPacket_iff _ hpid (by simp [namedPids, h6]))
  · exact never (by simp [longPids, h7]) (handshakePacket_cause hlen _)
  · exact never (by simp [longPids, h8]) (handshakePacket_cause hlen _)
  · exact never (by simp [longPids, h9]) (handshakePacket_cause hlen _)
  · have hnamed : pid ∉ namedPids := by simp [namedPids, h1, h2, h3, h4, h5, h6, h7, h8, h9]
    exact never (by simp [longPids, h1, h2, h3, h4, h5, h6]) (by simp [Packet.cause, hpid, hnamed])

/-- Settles O38: the record's kind says what it shows, and R115 says which kind a PID and a length give. -/
theorem recordShowsItsCause : Obligations.RecordShowsItsCause := by
  intro order sync pid rest b
  have hchecksum := cause_checksumMismatch_iff (classify order b)
  rw [everyRecordKeepsRawBytes order b] at hchecksum
  exact ⟨classifyPid_malformedPacket_iff order pid (b := b) rfl (by simp [b]), hchecksum⟩

/-! ## A flipped bit of a checksum -/

/-- R121 by its extractor alone. -/
theorem dataRec_eq (k : DataPid) (b0 b1 lo hi : Byte) (payload : List Byte) :
    dataRec k (b0 :: b1 :: (payload ++ [lo, hi])) =
      some (.data k payload (crc16Received hi lo) (crc16Matches payload (crc16Received hi lo))
        (b0 :: b1 :: (payload ++ [lo, hi]))) := by
  rw [show b0 :: b1 :: (payload ++ [lo, hi]) = (b0 :: b1 :: payload) ++ [lo, hi] from rfl, dataRec, memReadBack_last,
    memReadBack_secondLast, memSlice_append_two]
  rfl

theorem dataRec_fails (k : DataPid) (b0 b1 : Byte) {lo hi : Byte} {payload : List Byte}
    (h : crc16Matches payload (crc16Received hi lo) = false) :
    ∃ rx, dataRec k (b0 :: b1 :: (payload ++ [lo, hi])) =
      some (.data k payload rx false (b0 :: b1 :: (payload ++ [lo, hi]))) :=
  ⟨_, h ▸ dataRec_eq k b0 b1 lo hi payload⟩

/-- The two trailing bytes are read back from the checksum (R58). -/
theorem crc16Received_inj {hi lo hi' lo' : Byte} (h : crc16Received hi lo = crc16Received hi' lo') :
    hi = hi' ∧ lo = lo' := by
  rw [crc16Received_eq_ofNat, crc16Received_eq_ofNat] at h
  have hnat := congrArg BitVec.toNat h
  simp only [BitVec.toNat_ofNat] at hnat
  exact ⟨BitVec.eq_of_toNat_eq (by omega), BitVec.eq_of_toNat_eq (by omega)⟩

/-- A flipped bit changes the byte. -/
theorem xor_bit_ne (b : Byte) {j : Nat} (hj : j < 8) : b ≠ b ^^^ 1#8 <<< j := by
  intro h
  have hbit := congrArg (BitVec.getLsbD · j) h
  simp [hj] at hbit

/-- Settles O60: the payload's checksum is the received one, and the flipped one is another. -/
theorem flippedCrc16BitFailsCheck : Obligations.FlippedCrc16BitFailsCheck := by
  refine ⟨rfl, fun k b0 b1 lo hi payload j hj ⟨rx, hrec⟩ => ?_⟩
  have hmatch : crc16 payload = crc16Received hi lo := by
    rw [dataRec_eq] at hrec
    simp only [Option.some.injEq, Packet.data.injEq, true_and] at hrec
    exact eq_of_beq hrec.2.1
  have hfails {hi' lo' : Byte} (h : ¬ (hi = hi' ∧ lo = lo')) :
      crc16Matches payload (crc16Received hi' lo') = false := by
    rw [crc16Matches, hmatch]
    exact beq_eq_false_iff_ne.mpr fun heq => h (crc16Received_inj heq)
  exact ⟨dataRec_fails k b0 b1 (hfails fun h => xor_bit_ne lo hj h.2),
    dataRec_fails k b0 b1 (hfails fun h => xor_bit_ne hi hj h.1)⟩

end Sys2Proof.Machine
end

section
/-! PROOFS. Windows and time: the sums and the majority of a window (R73, R75), its schedule in both arithmetics (R77,
R81, R82), and the two periods (R5). -/

namespace Sys2Proof.Machine

/-! ## The majority -/

theorem foldlM_accumulate {s : State} (h : s.cfg.accBits = none) (samples : List Levels) :
    samples.foldlM (fun u lv => accumulate lv u) s =
      .ok { s with
        sumDp := s.sumDp + laneSum (samples.map Levels.dp), sumDm := s.sumDm + laneSum (samples.map Levels.dm) } := by
  induction samples generalizing s with
  | nil => simp [pure, Except.pure]
  | cons lv samples ih =>
    have hstep : accumulate lv s = .ok { s with
        sumDp := s.sumDp + weight lv.dp, sumDm := s.sumDm + weight lv.dm } :=
      accumulate_within (by rw [h]; rfl) (by rw [h]; rfl)
    rw [List.foldlM_cons, hstep]
    refine (ih (s := { s with sumDp := s.sumDp + weight lv.dp, sumDm := s.sumDm + weight lv.dm }) h).trans ?_
    simp [add_assoc]

/-- A lane's sum is what its HIGH samples are more than its LOW ones. -/
theorem laneSum_eq_count (lane : List Bool) : laneSum lane = (lane.count true : Int) - lane.count false := by
  induction lane with
  | nil => rfl
  | cons b lane ih =>
    rw [laneSum_cons, ih]
    cases b <;> simp [weight] <;> omega

theorem vote_laneSum_iff (lane : List Bool) : vote (laneSum lane) = true ↔ lane.count false < lane.count true := by
  rw [vote_iff, laneSum_eq_count]
  omega

theorem length_filter_eq_count (f : Levels → Bool) (samples : List Levels) :
    (samples.filter f).length = (samples.map f).count true ∧
      (samples.filter fun lv => !f lv).length = (samples.map f).count false := by
  simp only [← List.countP_eq_length_filter, List.count, List.countP_map]
  exact ⟨List.countP_congr (by simp), List.countP_congr (by simp)⟩

theorem vote_lane_iff (f : Levels → Bool) (samples : List Levels) :
    vote (laneSum (samples.map f)) = true ↔
      (samples.filter fun lv => !f lv).length < (samples.filter fun lv => f lv).length := by
  obtain ⟨hhigh, hlow⟩ := length_filter_eq_count f samples
  rw [vote_laneSum_iff, ← hhigh, ← hlow]

/-- Settles O54: ACCUMULATE adds each sample to the two lane sums, and a lane sum compares its counts. -/
theorem windowVotesByMajority : Obligations.WindowVotesByMajority := by
  intro s e samples hbits
  rw [windowSums_eq_laneSum]
  refine ⟨?_, vote_lane_iff Levels.dp samples, vote_lane_iff Levels.dm samples⟩
  rw [foldlM_accumulate (s := openWindow e s) hbits]
  simp

/-! ## The schedule -/

theorem windowEnd_succ {a : TimeArith} {spd : Speed} {t : Binary64} {k : Nat} {e : Time}
    (h : windowEnd a spd t k = .ok e) : windowEnd a spd t (k + 1) = e.addPeriod spd := by
  simp [windowEnd, h, Bind.bind, Except.bind]

theorem addPeriod_bin {spd : Speed} (h : spd ≠ .none) (e : Binary64) :
    (Time.bin e).addPeriod spd = .ok (.bin (fadd e (if spd = .fs then periodFs else periodLs))) := by
  cases spd with
  | none => exact absurd rfl h
  | ls => simp only [Time.addPeriod, reduceCtorEq, if_false]
  | fs => simp only [Time.addPeriod, if_true]

theorem windowEnd_exact {spd : Speed} {period : Int}
    (h : ∀ n, (Time.exact n).addPeriod spd = .ok (.exact (n + period))) (t : Binary64) (k : Nat) :
    windowEnd .exact spd t k = .ok (.exact (scaled t * exactScale + k * period)) := by
  induction k with
  | zero => simp [windowEnd, Time.ofSample]
  | succ k ih =>
    rw [windowEnd_succ ih, h]
    congr 2
    push_cast
    ring

/-- Settles O55: each end is the one before plus the period, rounded in binary64, and summed exactly otherwise. -/
theorem windowSchedule : Obligations.WindowSchedule := by
  refine ⟨fun spd t k e hspd => ⟨rfl, fun h => ?_⟩, fun t k => ⟨?_, ?_⟩, ?_, ?_⟩
  · rw [windowEnd_succ h, addPeriod_bin hspd]
  · exact windowEnd_exact (fun _ => rfl) t k
  · exact windowEnd_exact (fun _ => rfl) t k
  · rw [exactPeriodFs, exactScale]
  · rw [exactPeriodLs, exactScale, ← mul_assoc]
    norm_num only

/-- Settles O56: the two quotients evaluate. -/
theorem periodWords : Obligations.PeriodWords := by
  unfold Obligations.PeriodWords
  decide +kernel

end Sys2Proof.Machine
end

section
/-! PROOFS. The rounded sum of R8: the fields of a binary64 word, the grid of the finite values around a sum, and the
nearest grid point that `roundEven` takes (log 10). -/

namespace Sys2Proof.Machine

/-! ## The fields of a word -/

theorem expField_eq (a : Binary64) : expField a = a.toNat / 2 ^ 52 % 2 ^ 11 := by
  simp [expField, BitVec.extractLsb'_toNat, Nat.shiftRight_eq_div_pow]

theorem fracField_eq (a : Binary64) : fracField a = a.toNat % 2 ^ 52 := by
  simp [fracField, BitVec.extractLsb'_toNat]

theorem signBit_eq (a : Binary64) : signBit a = decide (2 ^ 63 ≤ a.toNat) := by
  rw [signBit, ← BitVec.msb_eq_getLsbD_last (x := a), BitVec.msb_eq_decide]

theorem toNat_ofBits (neg : Bool) {bits : Nat} (h : bits < 2 ^ 63) :
    (ofBits neg bits).toNat = (if neg then 2 ^ 63 else 0) + bits := by
  rw [ofBits, BitVec.toNat_ofNat, Nat.mod_eq_of_lt]
  split <;> omega

theorem signBit_ofBits (neg : Bool) {bits : Nat} (h : bits < 2 ^ 63) : signBit (ofBits neg bits) = neg := by
  rw [signBit_eq, toNat_ofBits neg h]
  cases neg with
  | false => exact decide_eq_false (by simpa using h)
  | true => exact decide_eq_true (Nat.le_add_right ..)

theorem expField_ofBits (neg : Bool) {bits : Nat} (h : bits < 2 ^ 63) :
    expField (ofBits neg bits) = bits / 2 ^ 52 := by
  rw [expField_eq, toNat_ofBits neg h]
  split <;> omega

theorem fracField_ofBits (neg : Bool) {bits : Nat} (h : bits < 2 ^ 63) :
    fracField (ofBits neg bits) = bits % 2 ^ 52 := by
  rw [fracField_eq, toNat_ofBits neg h]
  split <;> omega

/-- An even bit pattern ends in 0. -/
theorem getLsbD_zero_ofBits (neg : Bool) {bits : Nat} (h : bits < 2 ^ 63) (heven : bits % 2 = 0) :
    (ofBits neg bits).getLsbD 0 = false := by
  rw [BitVec.getLsbD, toNat_ofBits neg h, Nat.testBit_zero, decide_eq_false_iff_not]
  split <;> omega

/-- The magnitude that `k * 2^52` plus the digits `q` stand for: `q` places of `2^k` units. The digits may fill 53 bits,
or carry into the next exponent, and without an excess they may be fewer. -/
theorem magnitude_ofBits (neg : Bool) {k q : Nat} (hbits : k * 2 ^ 52 + q < 2 ^ 63) (hq : k = 0 ∨ 2 ^ 52 ≤ q)
    (hq' : q ≤ 2 ^ 53) : magnitude (ofBits neg (k * 2 ^ 52 + q)) = q * 2 ^ k := by
  rw [magnitude, expField_ofBits neg hbits, fracField_ofBits neg hbits]
  obtain hlt | hge := Nat.lt_or_ge q (2 ^ 52)
  · obtain rfl : k = 0 := by omega
    rw [if_pos (by omega)]
    omega
  · rw [if_neg (by omega)]
    obtain hlt | rfl := Nat.lt_or_eq_of_le hq'
    · rw [show (k * 2 ^ 52 + q) / 2 ^ 52 - 1 = k by omega, show 2 ^ 52 + (k * 2 ^ 52 + q) % 2 ^ 52 = q by omega]
    · rw [show (k * 2 ^ 52 + 2 ^ 53) / 2 ^ 52 - 1 = k + 1 by omega,
        show 2 ^ 52 + (k * 2 ^ 52 + 2 ^ 53) % 2 ^ 52 = 2 ^ 52 by omega, Nat.pow_succ]
      omega

/-! ## The nearest multiple -/

/-- Rounding down leaves less than half a place, or half a place with even digits; rounding up adds as little. -/
theorem roundEven_cases (n d : Nat) :
    (roundEven n d = n / d ∧ (2 * (n % d) < d ∨ 2 * (n % d) = d ∧ n / d % 2 = 0)) ∨
    (roundEven n d = n / d + 1 ∧ (d < 2 * (n % d) ∨ 2 * (n % d) = d ∧ n / d % 2 = 1)) := by
  unfold roundEven
  split_ifs <;> omega

/-- `roundEven` is off by half a place at most, and by half a place only with even digits. -/
theorem roundEven_half (n : Nat) {d : Nat} (hd : 0 < d) :
    2 * ((roundEven n d : Int) * d - n).natAbs ≤ d ∧
      (2 * ((roundEven n d : Int) * d - n).natAbs = d → roundEven n d % 2 = 0) := by
  have hdiv : (n : Int) = (n / d : Nat) * d + (n % d : Nat) := by exact_mod_cast (Nat.div_add_mod' n d).symm
  have hmod := Nat.mod_lt n hd
  rcases roundEven_cases n d with ⟨hq, hr⟩ | ⟨hq, hr⟩ <;> rw [hq]
  · have hoff : ((n / d : Nat) : Int) * d - n = -(n % d : Nat) := by rw [hdiv]; ring
    rw [hoff]
    omega
  · have hoff : ((n / d + 1 : Nat) : Int) * d - n = d - (n % d : Nat) := by rw [hdiv]; push_cast; ring
    rw [hoff]
    omega

/-- A value `v` is as near to `x` as `w` is; where they are equally near and differ, `even` holds. -/
def AsNear (even : Prop) (x v w : Int) : Prop :=
  (v - x).natAbs ≤ (w - x).natAbs ∧ ((v - x).natAbs = (w - x).natAbs → w ≠ v → even)

/-- No multiple of `d` is nearer to `n` than the one `roundEven` takes. -/
theorem roundEven_asNear_multiple (n : Nat) {d : Nat} (hd : 0 < d) {w : Int} (hw : (d : Int) ∣ w) :
    AsNear (roundEven n d % 2 = 0) n (roundEven n d * d) w := by
  obtain ⟨hhalf, heven⟩ := roundEven_half n hd
  generalize hv : (roundEven n d : Int) * d = v at *
  obtain ⟨m, hm⟩ : (d : Int) ∣ w - v := dvd_sub hw (hv ▸ dvd_mul_left _ _)
  by_cases hzero : m = 0
  · obtain rfl : w = v := by simpa [hzero, sub_eq_zero] using hm
    exact ⟨le_rfl, fun _ hne => absurd rfl hne⟩
  · have hplace : d ≤ (w - v).natAbs := by
      rw [hm, Int.natAbs_mul, Int.natAbs_natCast]
      exact Nat.le_mul_of_pos_right d (Int.natAbs_pos.mpr hzero)
    exact ⟨by omega, fun htie _ => heven (by omega)⟩

/-! ## The grid of the finite values -/

/-- Every magnitude is a multiple of `2^k` units, or below the `53 + k` bits that the multiples need. -/
theorem magnitude_grid (c : Binary64) (k : Nat) : 2 ^ k ∣ magnitude c ∨ magnitude c < 2 ^ (52 + k) := by
  have hfrac : fracField c < 2 ^ 52 := by rw [fracField_eq]; omega
  rw [magnitude]
  split_ifs with hexp
  · exact .inr (hfrac.trans_le (Nat.pow_le_pow_right (by omega) (by omega)))
  · obtain hle | hlt := le_or_gt k (expField c - 1)
    · exact .inl ((Nat.pow_dvd_pow 2 hle).mul_left _)
    · refine .inr ?_
      calc (2 ^ 52 + fracField c) * 2 ^ (expField c - 1)
          < 2 ^ 53 * 2 ^ (expField c - 1) := Nat.mul_lt_mul_of_pos_right (by omega) (Nat.two_pow_pos _)
        _ ≤ 2 ^ (52 + k) := by rw [← Nat.pow_add]; exact Nat.pow_le_pow_right (by omega) (by omega)

/-- A value of the grid is no nearer to `n` than the multiple `roundEven` takes: it is such a multiple itself, or it is
below `2^(52 + k)`, which is one and is not above `n`. -/
theorem roundEven_asNear_grid {n k : Nat} (hk : k = 0 ∨ 2 ^ (52 + k) ≤ n) {w : Int}
    (hw : 2 ^ k ∣ w.natAbs ∨ w.natAbs < 2 ^ (52 + k)) :
    AsNear (roundEven n (2 ^ k) % 2 = 0) n (roundEven n (2 ^ k) * (2 ^ k : Nat)) w := by
  have hpos := Nat.two_pow_pos k
  rcases hw with hdvd | hlt
  · exact roundEven_asNear_multiple n hpos (Int.natCast_dvd.mpr hdvd)
  rcases hk with rfl | hle
  · exact roundEven_asNear_multiple n hpos (one_dvd w)
  · have hedge : ((2 ^ k : Nat) : Int) ∣ (2 ^ (52 + k) : Nat) :=
      Int.natCast_dvd_natCast.mpr (Nat.pow_dvd_pow 2 (by omega))
    obtain ⟨hnear, -⟩ := roundEven_asNear_multiple n hpos hedge
    exact ⟨by omega, fun htie => by omega⟩

theorem AsNear.neg {even : Prop} {x v w : Int} (h : AsNear even x v w) : AsNear even (-x) (-v) (-w) := by
  obtain ⟨hle, htie⟩ := h
  exact ⟨by omega, fun heq hne => htie (by omega) (by omega)⟩

/-! ## The rounded sum -/

/-- How many binary digits a magnitude of `n` units has beyond 53 (R8). -/
def excess (n : Nat) : Nat := Nat.log2 n - 52

theorem excess_bounds {n : Nat} (h : n ≠ 0) : (excess n = 0 ∨ 2 ^ (52 + excess n) ≤ n) ∧ n < 2 ^ (53 + excess n) := by
  have hlow := Nat.log2_self_le h
  have hhigh : n < 2 ^ (n.log2 + 1) := Nat.lt_log2_self
  unfold excess
  refine ⟨?_, hhigh.trans_le (Nat.pow_le_pow_right (by omega) (by omega))⟩
  by_cases hk : n.log2 - 52 = 0
  · exact .inl hk
  · right
    rwa [show 52 + (n.log2 - 52) = n.log2 by omega]

/-- The digits kept are 53 bits, or carry into one more, and without an excess they may be fewer. -/
theorem roundEven_excess {n : Nat} (h : n ≠ 0) :
    (excess n = 0 ∨ 2 ^ 52 ≤ roundEven n (2 ^ excess n)) ∧ roundEven n (2 ^ excess n) ≤ 2 ^ 53 := by
  obtain ⟨hlow, hhigh⟩ := excess_bounds h
  have hpos := Nat.two_pow_pos (excess n)
  have hdiv : n / 2 ^ excess n < 2 ^ 53 := by rwa [Nat.div_lt_iff_lt_mul hpos, ← Nat.pow_add]
  have hround := roundEven_cases n (2 ^ excess n)
  refine ⟨hlow.imp_right fun hle => ?_, by omega⟩
  have : 2 ^ 52 ≤ n / 2 ^ excess n := by rwa [Nat.le_div_iff_mul_le hpos, ← Nat.pow_add]
  omega

theorem roundBits_one (n : Nat) :
    roundBits n 1 = min (excess n * 2 ^ 52 + roundEven n (2 ^ excess n)) infBits := by
  simp only [roundBits, excess, Nat.div_one, one_mul]

theorem not_finite_infBits (neg : Bool) : finite (ofBits neg infBits) = false := by
  rw [finite, expField_ofBits neg (by decide)]
  decide

/-- A rounded magnitude that is finite has not met the bound. -/
theorem roundBits_of_finite {neg : Bool} {n : Nat} (h : finite (ofBits neg (roundBits n 1)) = true) :
    roundBits n 1 = excess n * 2 ^ 52 + roundEven n (2 ^ excess n) ∧ roundBits n 1 < 2 ^ 63 := by
  have hne : roundBits n 1 ≠ infBits := fun heq => by rw [heq, not_finite_infBits] at h; cases h
  have hinf : infBits < 2 ^ 63 := by decide
  rw [roundBits_one] at hne ⊢
  omega

/-- The magnitude of a finite rounded word is the multiple of `2^k` units that `roundEven` takes. -/
theorem magnitude_rounded {neg : Bool} {n : Nat} (hn : n ≠ 0) (h : finite (ofBits neg (roundBits n 1)) = true) :
    magnitude (ofBits neg (roundBits n 1)) = roundEven n (2 ^ excess n) * 2 ^ excess n := by
  obtain ⟨hbits, hlt⟩ := roundBits_of_finite h
  obtain ⟨hq, hq'⟩ := roundEven_excess hn
  rw [hbits] at hlt ⊢
  exact magnitude_ofBits neg hlt hq hq'

/-- Even digits end the word in 0, whatever the excess. -/
theorem getLsbD_zero_rounded {neg : Bool} {n : Nat} (h : finite (ofBits neg (roundBits n 1)) = true)
    (heven : roundEven n (2 ^ excess n) % 2 = 0) : (ofBits neg (roundBits n 1)).getLsbD 0 = false := by
  obtain ⟨hbits, hlt⟩ := roundBits_of_finite h
  exact getLsbD_zero_ofBits neg hlt (by omega)

theorem natAbs_scaled (c : Binary64) : (scaled c).natAbs = magnitude c := by
  unfold scaled
  split <;> simp

/-- Rounding a whole number of units gives a nearest finite value, the even one of two. -/
theorem rounded_asNear {x : Int} (hx : x ≠ 0) (hfin : finite (ofBits (x < 0) (roundBits x.natAbs 1)) = true)
    (c : Binary64) :
    AsNear ((ofBits (x < 0) (roundBits x.natAbs 1)).getLsbD 0 = false) x
      (scaled (ofBits (x < 0) (roundBits x.natAbs 1))) (scaled c) := by
  have hn : x.natAbs ≠ 0 := Int.natAbs_ne_zero.mpr hx
  have hgrid {w : Int} (hw : w.natAbs = magnitude c) :
      AsNear ((ofBits (x < 0) (roundBits x.natAbs 1)).getLsbD 0 = false) x.natAbs
        (magnitude (ofBits (x < 0) (roundBits x.natAbs 1))) w := by
    obtain ⟨hle, htie⟩ := roundEven_asNear_grid (excess_bounds hn).1 (w := w)
      (hw.symm ▸ magnitude_grid c (excess x.natAbs))
    rw [magnitude_rounded hn hfin, Nat.cast_mul]
    exact ⟨hle, fun heq hne => getLsbD_zero_rounded hfin (htie heq hne)⟩
  rw [scaled, signBit_ofBits _ (roundBits_of_finite hfin).2]
  by_cases hneg : x < 0
  · have h := (hgrid (w := -scaled c) (by rw [Int.natAbs_neg, natAbs_scaled])).neg
    rw [neg_neg, show -(x.natAbs : Int) = x by omega] at h
    simpa [hneg] using h
  · have h := hgrid (natAbs_scaled c)
    rw [show (x.natAbs : Int) = x by omega] at h
    simpa [hneg] using h

theorem fadd_of_finite {a b : Binary64} (ha : finite a = true) (hb : finite b = true) :
    fadd a b = if scaled a + scaled b = 0 then ofBits (signBit a && signBit b) 0
      else ofBits (scaled a + scaled b < 0) (roundBits (scaled a + scaled b).natAbs 1) := by
  have hexp {c : Binary64} (hc : finite c = true) : isNaN c = false ∧ isInf c = false := by
    have hne : expField c ≠ 2047 := by simpa [finite] using hc
    simp [isNaN, isInf, hne]
  simp [fadd, hexp ha, hexp hb]

theorem scaled_ofBits_zero (neg : Bool) : scaled (ofBits neg 0) = 0 := by
  cases neg <;> rfl

/-- Settles O57: an exact sum of 0 is itself a value, and any other is rounded on its grid. -/
theorem faddRoundsToNearestEven : Obligations.FaddRoundsToNearestEven := by
  intro a b c ha hb hfin _ x
  show AsNear ((fadd a b).getLsbD 0 = false) x (scaled (fadd a b)) (scaled c)
  rw [fadd_of_finite ha hb] at hfin ⊢
  by_cases hx : scaled a + scaled b = 0
  · rw [if_pos hx, scaled_ofBits_zero]
    exact ⟨by omega, fun htie hne => by omega⟩
  · rw [if_neg hx] at hfin ⊢
    exact rounded_asNear hx hfin c

end Sys2Proof.Machine
end
